-- ==== Sys2Proof/Word.lean ====
section
/-! DEFINITION. The bit vectors of APF-LINK (00_scope.md R7): bytes and the 40-bit command word. -/

namespace Sys2Proof

/-- A byte: every address, length, tag byte and payload byte is 8 bits (R6, R7). -/
abbrev Byte := BitVec 8

/-- A command word `cmd[39:0]` (30_encoding.md R70). -/
abbrev CmdWord := BitVec 40

end Sys2Proof
end

