-- ==== Sys2Proof/Config.lean ====
section
/-! DEFINITION. What one instance of the block fixes (00_scope.md R6), and the free values the spec leaves open. -/

namespace Sys2Proof

/-- `RX_SIGNAL_MODE` (R6): how reception readiness is seen. -/
inductive SignalMode where
  | level
  | edge
deriving DecidableEq, Repr, Inhabited

/-- The parameters of R6, fixed for one instance of the block. `ACK_TAG_LEN` is `ackTag.length`.
`TICK_PERIOD` is informative and read by no rule, so it is left out (log 28). -/
structure Params where
  linkLayer : Bool
  maxLen : Nat
  broadcastAddr : Byte
  ackTag : List Byte
  ackTimeoutSteps : Nat
  backoffTicks : Nat
  rssiOffset : Byte
  rxSignalMode : SignalMode
  rxFlagDepth : Nat
  wCnt : Nat
deriving DecidableEq, Repr, Inhabited

/-- `ACK_TAG_LEN` (R6): the length of `ACK_TAG`. -/
def Params.ackTagLen (p : Params) : Nat := p.ackTag.length

/-- `BACKOFF_TICKS` of the instance that `State.reset` stands for: R6 marks it OPEN and gives no number anywhere,
so it is a free value of `W_CNT` = 16 bits (log 6). -/
opaque Config.backoffTicks : BitVec 16

/-- The value column of R6, with the OPEN parameters as 95_test_vectors.md and R6 name them (log 6). -/
def Params.standard : Params where
  linkLayer := true
  maxLen := 61
  broadcastAddr := 0x00#8
  ackTag := [0x41#8, 0x63#8]
  ackTimeoutSteps := 2000
  backoffTicks := Config.backoffTicks.toNat
  rssiOffset := 74#8
  rxSignalMode := .edge
  rxFlagDepth := 1
  wCnt := 16

/-- Free value: the raw RSSI byte the radio appends to a frame it receives (R64; log 8), by step number. -/
opaque Config.freeRssi : Nat → Byte

/-- Free value: the LQI/CRC byte the radio appends to a frame it receives (R64, R65; log 8), by step number. -/
opaque Config.freeLqi : Nat → Byte

/-- Free value: byte `i` beyond the content of the RX FIFO in a pop (20_memory.md R54; log 11), by step number. -/
opaque Config.freePop : Nat → Nat → Byte

/-- Free value: `CNT` of the `RX_STATUS` byte when the RX FIFO holds more than 127 bytes (R66 gives the field 7 bits
and no value there; log 10), by step number. -/
opaque Config.freeCount : Nat → BitVec 7

end Sys2Proof
end

