-- ==== Sys2Proof/Syntax.lean ====
section
/-! DEFINITION. The rows of spec/opcode_table.json: ten of format CW (30_encoding.md R70 to R72) and five that
cross the radio's side (R61 to R64, R66). -/

namespace Sys2Proof

/-- One constructor per row of the opcode table. A command keeps the bits of its word that it does not use
(`unused`): they have no effect (R70), but `CMDW` holds the word as it was sampled (R155). -/
inductive Instr where
  /-- `SEND_DATA` (R98): transmit one raw frame of `n` bytes; `unused` is bits 31:8. -/
  | sendData (n : Byte) (unused : BitVec 24)
  /-- `SEND_PACKET` (R123): addressed send with ACK wait and retries. -/
  | sendPacket (self dest retries n : Byte)
  /-- `SEND_ACK` (R126): transmit one ACK frame; `unused` is bits 15:0. -/
  | sendAck (self peer : Byte) (unused : BitVec 16)
  /-- `RECV_DATA` (R99): read one record as a raw frame; `unused` is bits 31:0. -/
  | recvData (unused : BitVec 32)
  /-- `RECV_HANDLE` (R127): read one record as an addressed frame; `unused` is bits 15:0. -/
  | recvHandle (self peer : Byte) (unused : BitVec 16)
  /-- `PKT_AVAIL` (R150): is a received frame waiting; `unused` is bits 31:0. -/
  | pktAvail (unused : BitVec 32)
  /-- `SET_ADDR` (R153): set the device address; `unused` is bits 23:0. -/
  | setAddr (addr : Byte) (unused : BitVec 24)
  /-- `WR_PAY` (R100): store one byte of outgoing data; `unused` is bits 15:0. -/
  | wrPay (idx val : Byte) (unused : BitVec 16)
  /-- `RD_RX` (R101): read one byte of the last record; `unused` is bits 23:0. -/
  | rdRx (idx : Byte) (unused : BitVec 24)
  /-- `ILLEGAL` (R72, R154): every word that is none of the nine commands, whole. -/
  | illegal (w : CmdWord)
  /-- `FRAME_RAW` (R61): a raw frame on the air, its payload. -/
  | frameRaw (data : List Byte)
  /-- `FRAME_ADDRESSED` (R62): an addressed frame on the air. -/
  | frameAddressed (dest src : Byte) (data : List Byte)
  /-- `FRAME_ACK` (R63): an ACK frame on the air; its data is `ACK_TAG`. -/
  | frameAck (dest src : Byte)
  /-- `RECORD` (R64): a received frame with its two trailer bytes, as it stands in the RX FIFO. -/
  | record (payload : List Byte) (rssiRaw lqiCrc : Byte)
  /-- `RX_STATUS_BYTE` (R66): the radio agent's answer to `RX_STATUS`. -/
  | rxStatusByte (ovf : Bool) (cnt : BitVec 7)
deriving DecidableEq, Repr, Inhabited

/-- The formats of byte strings on the radio's side. R68: a raw and an addressed frame have the same shape, so
the bytes alone do not tell the format. -/
inductive ByteFormat where
  | raw
  | addressed
  | ack
  | record
deriving DecidableEq, Repr, Inhabited

/-- The bits of one row, with the port they stand on: a command word on `cmd[39:0]`, a byte that answers
`RX_STATUS`, or a byte string that the radio receives. -/
inductive Code where
  | word (w : CmdWord)
  | status (b : Byte)
  | bytes (fmt : ByteFormat) (bs : List Byte)
deriving DecidableEq, Repr, Inhabited

end Sys2Proof
end

