-- ==== Sys2Proof/WellFormed.lean ====
section
/-! DEFINITION. Which parameters R6 admits, and which terms of `Instr` stand for a row of the opcode table. -/

namespace Sys2Proof

/-- The ranges of 00_scope.md R6. -/
def Params.wf (p : Params) : Bool :=
  decide (1 ≤ p.ackTagLen) && decide (2 + p.ackTagLen ≤ p.maxLen) && decide (p.maxLen ≤ 255) &&
  decide (1 ≤ p.wCnt) && decide (p.ackTimeoutSteps < 2 ^ p.wCnt) && decide (p.backoffTicks < 2 ^ p.wCnt) &&
  decide (1 ≤ p.rxFlagDepth)

/-- The opcodes of R71 under R71's last sentence: `SEND_PACKET`, `SEND_ACK` and `RECV_HANDLE` are assigned only
when `LINK_LAYER` is true. -/
def opAssigned (linkLayer : Bool) (op : Byte) : Bool :=
  op == 0x01#8 || op == 0x04#8 || op == 0x06#8 || op == 0x07#8 || op == 0x08#8 || op == 0x09#8 ||
  (linkLayer && (op == 0x02#8 || op == 0x03#8 || op == 0x05#8))

/-- A term that a decoder of an instance with parameters `p` can give: link commands need the link layer (R71),
an illegal word has an unassigned opcode (R72), a frame's `LEN` is at most `MAX_LEN` (R61 to R63), a record's is a
byte (R64). Operand ranges are no part of it: a command out of range is executed and refused with `BadOperand`
(60_exceptions.md R191). -/
def Instr.wf (p : Params) : Instr → Bool
  | .sendData _ _ => true
  | .sendPacket _ _ _ _ => p.linkLayer
  | .sendAck _ _ _ => p.linkLayer
  | .recvData _ => true
  | .recvHandle _ _ _ => p.linkLayer
  | .pktAvail _ => true
  | .setAddr _ _ => true
  | .wrPay _ _ _ => true
  | .rdRx _ _ => true
  | .illegal w => !opAssigned p.linkLayer (w.extractLsb' 32 8)
  | .frameRaw data => decide (data.length ≤ p.maxLen)
  | .frameAddressed _ _ data => decide (data.length + 2 ≤ p.maxLen)
  | .frameAck _ _ => decide (p.ackTagLen + 2 ≤ p.maxLen)
  | .record payload _ _ => decide (payload.length ≤ 255)
  | .rxStatusByte _ _ => true

end Sys2Proof
end

