-- ==== Sys2Proof/Decode.lean ====
section
/-! DEFINITION. The decoder, total on any bits, and after it the encoder, both from 30_encoding.md. -/

namespace Sys2Proof

/-- Field `OP`, bits 39:32 of a command word (R70). -/
def cwOp (w : CmdWord) : Byte := w.extractLsb' 32 8
/-- Field `A`, bits 31:24 (R70). -/
def cwA (w : CmdWord) : Byte := w.extractLsb' 24 8
/-- Field `B`, bits 23:16 (R70). -/
def cwB (w : CmdWord) : Byte := w.extractLsb' 16 8
/-- Field `C`, bits 15:8 (R70). -/
def cwC (w : CmdWord) : Byte := w.extractLsb' 8 8
/-- Field `N`, bits 7:0 (R70). -/
def cwN (w : CmdWord) : Byte := w.extractLsb' 0 8

/-- The opcode map of R71; every other word is `ILLEGAL` (R72). -/
def decodeWord (linkLayer : Bool) (w : CmdWord) : Instr :=
  if opAssigned linkLayer (cwOp w) = false then .illegal w
  else if cwOp w = 0x01#8 then .sendData (cwN w) (w.extractLsb' 8 24)
  else if cwOp w = 0x02#8 then .sendPacket (cwA w) (cwB w) (cwC w) (cwN w)
  else if cwOp w = 0x03#8 then .sendAck (cwA w) (cwB w) (w.extractLsb' 0 16)
  else if cwOp w = 0x04#8 then .recvData (w.extractLsb' 0 32)
  else if cwOp w = 0x05#8 then .recvHandle (cwA w) (cwB w) (w.extractLsb' 0 16)
  else if cwOp w = 0x06#8 then .pktAvail (w.extractLsb' 0 32)
  else if cwOp w = 0x07#8 then .setAddr (cwA w) (w.extractLsb' 0 24)
  else if cwOp w = 0x08#8 then .wrPay (cwA w) (cwB w) (w.extractLsb' 0 16)
  else if cwOp w = 0x09#8 then .rdRx (cwA w) (w.extractLsb' 0 24)
  else .illegal w

/-- The `RX_STATUS` byte (R66): `OVF` is bit 7, `CNT` bits 6:0. -/
def decodeStatusByte (b : Byte) : Instr := .rxStatusByte (b.getLsbD 7) (b.extractLsb' 0 7)

/-- Why a byte string is not of its format. -/
inductive DecodeError where
  /-- No byte at all: a frame has at least its length byte (R60). -/
  | noLengthByte
  /-- The length byte does not count the bytes that follow it (R60, R64). -/
  | lengthMismatch
  /-- `LEN` is greater than `MAX_LEN` (R60). -/
  | overMaxLen
  /-- `LEN` is too small for two addresses (R62). -/
  | noAddresses
  /-- The data is not `ACK_TAG` (R63). -/
  | notTheTag
deriving DecidableEq, Repr

/-- The byte formats of R61 to R64. -/
def decodeBytes (p : Params) (fmt : ByteFormat) (bs : List Byte) : Except DecodeError Instr :=
  match bs with
  | [] => .error .noLengthByte
  | len :: rest =>
    match fmt with
    | .record =>
      match rest.drop len.toNat with
      | [rssi, lqi] => .ok (.record (rest.take len.toNat) rssi lqi)
      | _ => .error .lengthMismatch
    | .raw =>
      if rest.length ≠ len.toNat then .error .lengthMismatch
      else if p.maxLen < rest.length then .error .overMaxLen
      else .ok (.frameRaw rest)
    | .addressed =>
      if rest.length ≠ len.toNat then .error .lengthMismatch
      else if p.maxLen < rest.length then .error .overMaxLen
      else
        match rest with
        | dest :: src :: data => .ok (.frameAddressed dest src data)
        | _ => .error .noAddresses
    | .ack =>
      if rest.length ≠ len.toNat then .error .lengthMismatch
      else if p.maxLen < rest.length then .error .overMaxLen
      else
        match rest with
        | dest :: src :: data => if data = p.ackTag then .ok (.frameAck dest src) else .error .notTheTag
        | _ => .error .noAddresses

/-- The decoder of an instance with parameters `p`: total, and it rejects by name. -/
def decode (p : Params) : Code → Except DecodeError Instr
  | .word w => .ok (decodeWord p.linkLayer w)
  | .status b => .ok (decodeStatusByte b)
  | .bytes fmt bs => decodeBytes p fmt bs

/-- The length byte of `n` following bytes (R60); `n` is at most 255 wherever a rule uses it (R67). -/
def lenByte (n : Nat) : Byte := BitVec.ofNat 8 n

/-- The bytes of a raw frame (R61). -/
def rawFrame (data : List Byte) : List Byte := lenByte data.length :: data

/-- The bytes of an addressed frame (R62): `LEN` = n + 2, destination, source, data. -/
def addressedFrame (dest src : Byte) (data : List Byte) : List Byte :=
  lenByte (data.length + 2) :: dest :: src :: data

/-- The bytes of an ACK frame (R63): an addressed frame whose data is `ACK_TAG`. -/
def ackFrame (p : Params) (dest src : Byte) : List Byte := addressedFrame dest src p.ackTag

/-- The bytes of a record (R64): frame, raw RSSI, LQI with CRC-OK. -/
def recordBytes (payload : List Byte) (rssi lqi : Byte) : List Byte := rawFrame payload ++ [rssi, lqi]

/-- The `RX_STATUS` byte (R66). -/
def statusByteOf (ovf : Bool) (cnt : BitVec 7) : Byte := (BitVec.ofBool ovf ++ cnt : BitVec 8)

/-- The word of `SEND_DATA` (R70, R71). -/
def wordSendData (n : Byte) (unused : BitVec 24) : CmdWord := (0x01#8 ++ unused ++ n : BitVec 40)
/-- The word of `SEND_PACKET`. -/
def wordSendPacket (self dest retries n : Byte) : CmdWord := (0x02#8 ++ self ++ dest ++ retries ++ n : BitVec 40)
/-- The word of `SEND_ACK`. -/
def wordSendAck (self peer : Byte) (unused : BitVec 16) : CmdWord := (0x03#8 ++ self ++ peer ++ unused : BitVec 40)
/-- The word of `RECV_DATA`. -/
def wordRecvData (unused : BitVec 32) : CmdWord := (0x04#8 ++ unused : BitVec 40)
/-- The word of `RECV_HANDLE`. -/
def wordRecvHandle (self peer : Byte) (unused : BitVec 16) : CmdWord := (0x05#8 ++ self ++ peer ++ unused : BitVec 40)
/-- The word of `PKT_AVAIL`. -/
def wordPktAvail (unused : BitVec 32) : CmdWord := (0x06#8 ++ unused : BitVec 40)
/-- The word of `SET_ADDR`. -/
def wordSetAddr (addr : Byte) (unused : BitVec 24) : CmdWord := (0x07#8 ++ addr ++ unused : BitVec 40)
/-- The word of `WR_PAY`. -/
def wordWrPay (idx val : Byte) (unused : BitVec 16) : CmdWord := (0x08#8 ++ idx ++ val ++ unused : BitVec 40)
/-- The word of `RD_RX`. -/
def wordRdRx (idx : Byte) (unused : BitVec 24) : CmdWord := (0x09#8 ++ idx ++ unused : BitVec 40)

/-- The encoder: the bits of an instruction on its port. -/
def encode (p : Params) : Instr → Code
  | .sendData n u => .word (wordSendData n u)
  | .sendPacket self dest retries n => .word (wordSendPacket self dest retries n)
  | .sendAck self peer u => .word (wordSendAck self peer u)
  | .recvData u => .word (wordRecvData u)
  | .recvHandle self peer u => .word (wordRecvHandle self peer u)
  | .pktAvail u => .word (wordPktAvail u)
  | .setAddr addr u => .word (wordSetAddr addr u)
  | .wrPay idx val u => .word (wordWrPay idx val u)
  | .rdRx idx u => .word (wordRdRx idx u)
  | .illegal w => .word w
  | .frameRaw data => .bytes .raw (rawFrame data)
  | .frameAddressed dest src data => .bytes .addressed (addressedFrame dest src data)
  | .frameAck dest src => .bytes .ack (ackFrame p dest src)
  | .record payload rssi lqi => .bytes .record (recordBytes payload rssi lqi)
  | .rxStatusByte ovf cnt => .status (statusByteOf ovf cnt)

/-- The first `k` bytes of the number `w`, least significant first: byte `i` is bits `8i+7 .. 8i`. -/
def tableBytes : Nat → Nat → List Byte
  | 0, _ => []
  | k + 1, w => BitVec.ofNat 8 w :: tableBytes k (w / 256)

/-- The format of a byte string that the table gives without one (R68: the bytes do not tell the variant): a record
when the bytes after the length byte are two more than it counts, a raw frame otherwise (log 3). -/
def tableFormat : List Byte → ByteFormat
  | [] => .raw
  | len :: rest => if rest.length = len.toNat + 2 then .record else .raw

/-- The bits of a row of `nbits` bits numbered as opcode_table.json numbers them (log 3): 8 bits are an `RX_STATUS`
byte, 40 bits (or a row that the table gives no bits) a command word, any other number a byte string. -/
def tableCode (nbits w : Nat) : Code :=
  if nbits = 8 then .status (BitVec.ofNat 8 w)
  else if nbits = 40 ∨ nbits = 0 then .word (BitVec.ofNat 40 w)
  else .bytes (tableFormat (tableBytes (nbits / 8) w)) (tableBytes (nbits / 8) w)

/-- What the decoder of the standard instance reads from such bits. -/
def decodeTableWord (nbits w : Nat) : Option Instr :=
  match decode Params.standard (tableCode nbits w) with
  | .ok i => some i
  | .error _ => none

end Sys2Proof
end

