-- ==== Sys2Proof/Machine/State.lean ====
section
/-! DEFINITION. The state of APF-LINK (10_state.md R10 to R23), of its ports (R26) and of the radio agent (R27, R31,
20_memory.md R40), as plain data; the events that reach it; the state after reset (R29). -/

namespace Sys2Proof.Machine

/-- The bytes of one buffer, by index, in canonical form: indices rise, and no entry holds what an unlisted index
reads as. -/
abbrev Mem := List Host.Cell

/-- What an unlisted index reads as: the reset content of R29. -/
def Mem.unlisted : Byte := 0x00#8

/-- `FSM` (R17): what the block does next. Codes 14 and 15 are unused. -/
inductive Fsm where
  | idle | txLoad | txGo | txRxgo | ackPoll | ackTick | rdStatus | rdLen | rdBody | rdTrailer | rdFlush | rdRxgo
  | backoff | addrWr
deriving DecidableEq, Repr, Inhabited

/-- `CTX` (R17): on behalf of which command. -/
inductive Ctx where
  | none | sendData | sendPacket | sendAck | recvData | recvHandle | autoAck | setAddr
deriving DecidableEq, Repr, Inhabited

/-- `RDRES` (R18): the outcome of the read in progress. -/
inductive RdRes where
  | none | ok | empty | overflow | oversize | badAck
deriving DecidableEq, Repr, Inhabited

/-- `STATUS.RXCODE` (30_encoding.md R73). -/
inductive RxCode where
  | ack | data | badFrame | timeout
deriving DecidableEq, Repr, Inhabited

/-- The codes of `ERR.CODE` and `ERR.ATT` (30_encoding.md R74). -/
inductive ErrCode where
  | none | busTimeout | notReady | txUnderflow | rxOverflow | oversized | badAck | retries | ackTimeout | short
  | empty | badOperand | illegalCmd
deriving DecidableEq, Repr, Inhabited

/-- `STATUS` (R19) by field; `Status.word` is the register. -/
structure Status where
  busy : Bool
  done : Bool
  ok : Bool
  rxcode : RxCode
deriving DecidableEq, Repr, Inhabited

/-- `ERR` (R20) by field; `Err.word` is the register. -/
structure Err where
  code : ErrCode
  att : ErrCode
deriving DecidableEq, Repr, Inhabited

/-- The level inputs (R26): reset, chip initialized, radio signals data ready. -/
structure Ports where
  rst : Bool
  initOk : Bool
  dataReady : Bool
deriving DecidableEq, Repr, Inhabited

/-- What the chip has been asked into last, as far as the rules say (40_framer.md R93, 60_exceptions.md R203). -/
inductive ChipMode where
  | unknown | receive
deriving DecidableEq, Repr, Inhabited

/-- The radio agent's state (R31, 20_memory.md R40): both FIFOs, the overflow condition (R53), the chip's
device-address register, its mode. -/
structure Chip where
  rxFifo : List Byte
  rxOvf : Bool
  txFifo : List Byte
  addr : Byte
  mode : ChipMode
deriving DecidableEq, Repr, Inhabited

/-- A request on the radio port (R27). -/
inductive Request where
  | txfifoBurst (bs : List Byte)
  | txGo
  | rxGo
  | rxStatus
  | rxfifoPop (k : Nat)
  | rxFlush
  | addrWrite (a : Byte)
deriving DecidableEq, Repr, Inhabited

/-- A response on the radio port (R27). -/
inductive Response where
  | ok
  | txOk
  | txUnderflow
  | busTimeout
  | byte (b : Byte)
  | bytes (bs : List Byte)
deriving DecidableEq, Repr, Inhabited

/-- How the radio agent answers the outstanding request: it does what R27 says and answers so, it reports a TX
underflow (`TX_GO` only), or the bus times out (every request). -/
inductive Reply where
  | done | txUnderflow | busTimeout
deriving DecidableEq, Repr, Inhabited

/-- One line of a trace (30_encoding.md R77, with the line `EDGE` of 95_test_vectors.md). -/
inductive Interaction where
  | request (q : Request) (r : Response)
  | poll (ready : Bool)
  | tick
  | edge
deriving DecidableEq, Repr, Inhabited

/-- One event, one step (43_sequencer.md R165, R169; log 2). -/
inductive Event where
  /-- Bits arrive on a port: a command word with `cmd_valid`, an answer to `RX_STATUS`, or a byte string received
  by the radio. -/
  | code (c : Code)
  /-- The radio agent answers the outstanding request (R51). -/
  | answer (r : Reply)
  /-- No agent acts, so that the block takes the `Poll()` it is about to take (R151, R170) and nothing else
  happens. -/
  | poll
  /-- A `tick` (R26, R200). -/
  | tick
  /-- The reset input takes a level (R30). -/
  | rst (level : Bool)
  /-- `init_ok` takes a level (R26, 60_exceptions.md R182). -/
  | initOk (level : Bool)
  /-- `data_ready` takes a level; its rise is the edge of 42_system.md R152. -/
  | dataReady (level : Bool)
  /-- Bytes of any value enter the RX FIFO, and it may overflow (R169, 93_implementation_defined.md U4). Bytes leave it
  by the block's pops and flushes only (20_memory.md R44, R53; log 10). -/
  | rxArrive (bs : List Byte) (ovf : Bool)
  /-- The chip's own `reset()`, done by the radio agent (70_reset_and_hazards.md R211 b). -/
  | chipReset
deriving DecidableEq, Repr, Inhabited

/-- Free value: the events after the script, by step number: the host, the radio agent and the environment act at
times and with values the block does not choose (R28, 93_implementation_defined.md U1, U2, U4, U5; log 2). -/
opaque Config.freeEvent : Nat → Event

/-- Free value: the radio agent's state after it answered `BUS_TIMEOUT` (93_implementation_defined.md U6; log 12),
by step number. -/
opaque Config.freeChip : Nat → Chip

/-- The state: the block's (R10), the ports' levels (R26), the radio agent's (R31), and the model's own fields:
the parameters (log 1), the events to come and the step number (log 2), and the trace of the last accepted command
with what followed it (log 22). -/
structure State where
  pay : Mem
  txbuf : Mem
  rxbuf : Mem
  rLen : Byte
  rDest : Byte
  rSrc : Byte
  rRssiRaw : Byte
  rLqiRaw : Byte
  rdData : Byte
  fsm : Fsm
  ctx : Ctx
  cmdw : CmdWord
  rdres : RdRes
  txres : Bool
  status : Status
  err : Err
  ownAddr : Byte
  xSelf : Byte
  xPeer : Byte
  xMaxRetry : Byte
  xN : Byte
  retryCnt : Byte
  waitCnt : Nat
  rxFlag : Nat
  ports : Ports
  chip : Chip
  cfg : Params
  script : List Event
  now : Nat
  trace : List Interaction
deriving DecidableEq, Repr, Inhabited

/-- Why a step can stop. No run from reset with admitted parameters raises either (`State.Inv`, Safety.lean). -/
inductive Fault where
  /-- A buffer index outside the range of 20_memory.md R40, which R42 says the block never generates. Raised by
  `memRead` and `memWrite`. Safe. -/
  | bufferIndex
  /-- (`FSM`, `CTX`) and the response are no row of 43_sequencer.md R166. Raised by `onResponse`, `afterTransmit`
  and `dispatch`. Safe. -/
  | noRow
deriving DecidableEq, Repr

/-- Why an instruction has no meaning. -/
inductive Refusal where
  /-- The instruction has no meaning yet. Raised by no arm of `exec`. Safe. -/
  | notModelled (mnemonic : String)
deriving DecidableEq, Repr

/-- The state right after `rst` (R29); for the ports and the radio agent, which R29 does not cover, the values of
log 5; for the parameters those of log 6; nothing scripted and no trace (log 22). -/
def State.reset : State where
  pay := []
  txbuf := []
  rxbuf := []
  rLen := 0x00#8
  rDest := 0x00#8
  rSrc := 0x00#8
  rRssiRaw := 0x00#8
  rLqiRaw := 0x00#8
  rdData := 0x00#8
  fsm := .idle
  ctx := .none
  cmdw := 0#40
  rdres := .none
  txres := false
  status := { busy := false, done := false, ok := false, rxcode := .ack }
  err := { code := .none, att := .none }
  ownAddr := 0x00#8
  xSelf := 0x00#8
  xPeer := 0x00#8
  xMaxRetry := 0x00#8
  xN := 0x00#8
  retryCnt := 0x00#8
  waitCnt := 0
  rxFlag := 0
  ports := { rst := false, initOk := false, dataReady := false }
  chip := { rxFifo := [], rxOvf := false, txFifo := [], addr := 0x00#8, mode := .unknown }
  cfg := Params.standard
  script := []
  now := 0
  trace := []

end Sys2Proof.Machine
end

