-- ==== Sys2Proof/Machine/Flags.lean ====
section
/-! DEFINITION. Every flag and code the spec computes: the trailer's RSSI, LQI and CRC-OK (40_framer.md R95 to R97),
the fields of the `RX_STATUS` byte (30_encoding.md R66), the register views of `STATUS` and `ERR` (R19, R20, R73,
R74), the codes of `FSM`, `CTX` and `RDRES` (R17, R18), and the derived outputs (R15, R26). -/

namespace Sys2Proof.Machine

/-- `rssiToDbm(r, o)` (R95): the division truncates toward zero. -/
def rssiToDbm (r o : Byte) : Int :=
  if 128 ≤ r.toNat then Int.tdiv ((r.toNat : Int) - 256) 2 - (o.toNat : Int)
  else Int.tdiv (r.toNat : Int) 2 - (o.toNat : Int)

/-- `lqiConvert(b) = b[6:0]` (R96). -/
def lqiConvert (b : Byte) : Byte := b &&& 0x7F#8

/-- `crcOk(b) = (b[7] == 1)` (R97). -/
def crcOk (b : Byte) : Bool := b.getLsbD 7

/-- `OVF`, bit 7 of the `RX_STATUS` byte (R66). -/
def statusOvf (b : Byte) : Bool := b.getLsbD 7

/-- `CNT`, bits 6:0 of the `RX_STATUS` byte (R66). -/
def statusCnt (b : Byte) : BitVec 7 := b.extractLsb' 0 7

/-- The number of a `RXCODE` (R73). -/
def RxCode.code : RxCode → BitVec 2
  | .ack => 0#2
  | .data => 1#2
  | .badFrame => 2#2
  | .timeout => 3#2

/-- The number of an error (R74). -/
def ErrCode.code : ErrCode → BitVec 4
  | .none => 0#4
  | .busTimeout => 1#4
  | .notReady => 2#4
  | .txUnderflow => 3#4
  | .rxOverflow => 4#4
  | .oversized => 5#4
  | .badAck => 6#4
  | .retries => 7#4
  | .ackTimeout => 8#4
  | .short => 9#4
  | .empty => 10#4
  | .badOperand => 11#4
  | .illegalCmd => 12#4

/-- The register `STATUS` (R19): bits 7:5 read 0, `RXCODE` 4:3, `OK` 2, `DONE` 1, `BUSY` 0. -/
def Status.word (st : Status) : Byte :=
  (0#3 ++ st.rxcode.code ++ BitVec.ofBool st.ok ++ BitVec.ofBool st.done ++ BitVec.ofBool st.busy : BitVec 8)

/-- The register `ERR` (R20): `ATT` 7:4, `CODE` 3:0. -/
def Err.word (e : Err) : Byte := (e.att.code ++ e.code.code : BitVec 8)

/-- The code of `FSM` (R17). -/
def Fsm.code : Fsm → BitVec 4
  | .idle => 0#4
  | .txLoad => 1#4
  | .txGo => 2#4
  | .txRxgo => 3#4
  | .ackPoll => 4#4
  | .ackTick => 5#4
  | .rdStatus => 6#4
  | .rdLen => 7#4
  | .rdBody => 8#4
  | .rdTrailer => 9#4
  | .rdFlush => 10#4
  | .rdRxgo => 11#4
  | .backoff => 12#4
  | .addrWr => 13#4

/-- The code of `CTX` (R17). -/
def Ctx.code : Ctx → BitVec 3
  | .none => 0#3
  | .sendData => 1#3
  | .sendPacket => 2#3
  | .sendAck => 3#3
  | .recvData => 4#3
  | .recvHandle => 5#3
  | .autoAck => 6#3
  | .setAddr => 7#3

/-- The code of `RDRES` (R18). -/
def RdRes.code : RdRes → BitVec 3
  | .none => 0#3
  | .ok => 1#3
  | .empty => 2#3
  | .overflow => 3#3
  | .oversize => 4#3
  | .badAck => 5#3

/-- Output `RSSI_DBM` (R15). -/
def State.rssiDbm (s : State) : Int := rssiToDbm s.rRssiRaw s.cfg.rssiOffset

/-- Output `LQI` (R15). -/
def State.lqi (s : State) : Byte := lqiConvert s.rLqiRaw

/-- Output `CRC_OK` (R15). -/
def State.crcOkOut (s : State) : Bool := crcOk s.rLqiRaw

/-- Output `cmd_ready` (R26). -/
def State.cmdReady (s : State) : Bool := !s.status.busy

end Sys2Proof.Machine
end

