-- ==== Sys2Proof/Machine/Operands.lean ====
section
/-! DEFINITION. Every operand condition the spec gives: the ranges of 60_exceptions.md R191, and the comparators of
41_link.md R120 to R122 over the addresses of an exchange. The fields of the command word are in Decode.lean
(30_encoding.md R70). -/

namespace Sys2Proof.Machine

/-- `SEND_DATA` is in range: `N <= MAX_LEN` (R191). -/
def sendDataInRange (p : Params) (n : Byte) : Bool := decide (n.toNat ≤ p.maxLen)

/-- `SEND_PACKET` is in range: `N + 2 <= MAX_LEN` as unbounded integers (R191, 30_encoding.md R67). -/
def sendPacketInRange (p : Params) (n : Byte) : Bool := decide (n.toNat + 2 ≤ p.maxLen)

/-- `WR_PAY` is in range: `A < MAX_LEN` (R191). -/
def wrPayInRange (p : Params) (idx : Byte) : Bool := decide (idx.toNat < p.maxLen)

/-- `RD_RX` is in range: `A <= MAX_LEN + 2` (R191). -/
def rdRxInRange (p : Params) (idx : Byte) : Bool := decide (idx.toNat ≤ p.maxLen + 2)

/-- `IsBroadcast(a)` (R120). -/
def isBroadcast (p : Params) (a : Byte) : Bool := a == p.broadcastAddr

end Sys2Proof.Machine
end

