-- ==== Sys2Proof/Machine/Ops.lean ====
section
/-! DEFINITION. The named operations: buffers (00_scope.md R8, 20_memory.md R40 to R44), acceptance, `Finish` and
`raise` (42_system.md R155, R157, 60_exceptions.md R197), readiness and its edge (42_system.md R151, R152), the
radio agent's side of the port (10_state.md R27, 20_memory.md R51 to R54), the frame builders (40_framer.md R90 to
R92), the address filter (41_link.md R121), and the levels of the input ports (10_state.md R26, R30). -/

namespace Sys2Proof.Machine

/-- The outcome of an operation that can only fault. -/
def outcome (r : Except Fault State) : Host.Outcome State Fault Refusal :=
  match r with
  | .ok s => .next s
  | .error f => .fault f

/-! ## Buffers -/

/-- The byte at an index. -/
def Mem.read : Mem → Nat → Byte
  | [], _ => Mem.unlisted
  | (k, v) :: m, a => if k = a then v else Mem.read m a

/-- Store a byte at an index, keeping the canonical form. -/
def Mem.write : Mem → Nat → Byte → Mem
  | [], a, v => if v = Mem.unlisted then [] else [(a, v)]
  | (k, x) :: m, a, v =>
    if a < k then (if v = Mem.unlisted then (k, x) :: m else (a, v) :: (k, x) :: m)
    else if a = k then (if v = Mem.unlisted then m else (a, v) :: m)
    else (k, x) :: Mem.write m a v

/-- The bytes at `a .. a+n-1`. -/
def Mem.readBytes (m : Mem) (a : Nat) : Nat → List Byte
  | 0 => []
  | n + 1 => Mem.read m a :: Mem.readBytes m (a + 1) n

/-- Store a byte string at `a`, first byte first (20_memory.md R41). -/
def Mem.writeBytes (m : Mem) (a : Nat) : List Byte → Mem
  | [] => m
  | b :: bs => Mem.writeBytes (Mem.write m a b) (a + 1) bs

/-- Indices rise strictly from `lo` on and no entry holds what an unlisted index reads as. -/
def Mem.wfFrom (lo : Nat) : Mem → Bool
  | [] => true
  | (k, v) :: m => decide (lo ≤ k) && decide (v ≠ Mem.unlisted) && Mem.wfFrom (k + 1) m

/-- The canonical form. -/
def Mem.wf (m : Mem) : Bool := Mem.wfFrom 0 m

/-- Every listed index is below `size`. -/
def Mem.within (size : Nat) (m : Mem) : Bool := m.all fun c => decide (c.1 < size)

/-- The internal buffer spaces (R40). -/
inductive Space where
  | pay | txbuf | rxbuf
deriving DecidableEq, Repr

/-- The number of cells of a space (R11 to R13, R40). -/
def Space.size (p : Params) : Space → Nat
  | .pay => p.maxLen
  | .txbuf => p.maxLen + 1
  | .rxbuf => p.maxLen + 3

/-- The content of a space. -/
def State.buf (s : State) : Space → Mem
  | .pay => s.pay
  | .txbuf => s.txbuf
  | .rxbuf => s.rxbuf

/-- Replace the content of a space. -/
def State.setBuf (s : State) (sp : Space) (m : Mem) : State :=
  match sp with
  | .pay => { s with pay := m }
  | .txbuf => { s with txbuf := m }
  | .rxbuf => { s with rxbuf := m }

/-- Byte `i` of a space, where the rules keep the index in range. -/
def State.byteAt (s : State) (sp : Space) (i : Nat) : Byte := Mem.read (s.buf sp) i

/-- `MemRead(S, a, n)` (R8): every index is inside the buffer. -/
def memRead (sp : Space) (a n : Nat) (s : State) : Except Fault (List Byte) :=
  if a + n ≤ sp.size s.cfg then .ok (Mem.readBytes (s.buf sp) a n) else .error .bufferIndex

/-- `MemWrite(S, a, n, v)` (R8), `n` the length of `v`: every index is inside the buffer. -/
def memWrite (sp : Space) (a : Nat) (v : List Byte) (s : State) : Except Fault State :=
  if a + v.length ≤ sp.size s.cfg then .ok (s.setBuf sp (Mem.writeBytes (s.buf sp) a v)) else .error .bufferIndex

/-! ## The start and the end of a command -/

/-- A command is accepted at a step in which `rst` is not asserted and `BUSY` is 0 (R155). -/
def State.canAccept (s : State) : Bool := !s.ports.rst && !s.status.busy

/-- Acceptance (R155): sample the word, set `BUSY`, clear the results. The trace starts anew (log 22). -/
def accept (w : CmdWord) (s : State) : State :=
  { s with
    cmdw := w
    status := { busy := true, done := false, ok := false, rxcode := .ack }
    err := { code := .none, att := .none }
    trace := [] }

/-- `Finish(ok, rxcode)` (R157). -/
def finish (ok : Bool) (rx : RxCode) (s : State) : State :=
  { s with
    status := { busy := false, done := true, ok := ok, rxcode := rx }
    fsm := .idle
    ctx := .none }

/-- The `RXCODE` of a command that ends with error `e` (R197): `RECV_HANDLE` reports `Timeout` for `BusTimeout` and
`BadFrame` otherwise, every other command 0. The opcode test applies only with the link layer. -/
def raiseRxCode (linkLayer : Bool) (w : CmdWord) (e : ErrCode) : RxCode :=
  if linkLayer && cwOp w == 0x05#8 then
    match e with
    | .busTimeout => .timeout
    | _ => .badFrame
  else .ack

/-- `raise E` (R197): the one abnormal end of a command. -/
def raiseError (e : ErrCode) (s : State) : State :=
  { s with
    status := { busy := false, done := true, ok := false, rxcode := raiseRxCode s.cfg.linkLayer s.cmdw e }
    err := { s.err with code := e }
    fsm := .idle
    ctx := .none }

/-- Begin a command: its pseudocode runs on the accepted state when the block can accept, and nothing happens
otherwise: the host must hold or repeat the command (R155; log 17). -/
def begin (w : CmdWord) (body : State → Except Fault State) (s : State) : Host.Outcome State Fault Refusal :=
  if s.canAccept then outcome (body (accept w s)) else .next s

/-- The illegal test of a link command (R71, R154): it comes first (60_exceptions.md R196). -/
def requireLink (body : State → Except Fault State) (s : State) : Except Fault State :=
  if s.cfg.linkLayer then body s else .ok (raiseError .illegalCmd s)

/-- `if init_ok == 0: raise NotReady` (60_exceptions.md R183). -/
def requireReady (body : State → Except Fault State) (s : State) : Except Fault State :=
  if s.ports.initOk then body s else .ok (raiseError .notReady s)

/-- An operand in range, or `raise BadOperand` (60_exceptions.md R191). -/
def requireRange (inRange : Bool) (body : State → Except Fault State) (s : State) : Except Fault State :=
  if inRange then body s else .ok (raiseError .badOperand s)

/-! ## The trace, readiness, the edge -/

/-- Append one line to the trace (30_encoding.md R77). -/
def State.log (s : State) (i : Interaction) : State := { s with trace := s.trace ++ [i] }

/-- What `Poll()` returns (R151): the level, or whether `RX_FLAG` is above 0. -/
def pollReady (s : State) : Bool :=
  match s.cfg.rxSignalMode with
  | .level => s.ports.dataReady
  | .edge => decide (0 < s.rxFlag)

/-- What `Poll()` does (R151): in `EDGE` mode a true poll takes one count of `RX_FLAG`. -/
def pollTake (s : State) : State :=
  match s.cfg.rxSignalMode with
  | .level => s
  | .edge => { s with rxFlag := s.rxFlag - 1 }

/-- `Poll()` (R151) with its line of the trace. -/
def poll (s : State) : Bool × State := (pollReady s, (pollTake s).log (.poll (pollReady s)))

/-- The data-ready edge (R152): `RX_FLAG` counts up and saturates. -/
def dataReadyEdge (s : State) : State :=
  { s with rxFlag := min (s.rxFlag + 1) s.cfg.rxFlagDepth }.log .edge

/-- `data_ready` takes a level; its rise is an edge in every state of the block, busy or idle, in both modes (R152).
While `rst` is asserted the edge is lost (70_reset_and_hazards.md R212). -/
def setDataReady (level : Bool) (s : State) : State :=
  let s' := { s with ports := { s.ports with dataReady := level } }
  if level && !s.ports.dataReady && !s.ports.rst then dataReadyEdge s' else s'

/-- `init_ok` takes a level (R26). -/
def setInitOk (level : Bool) (s : State) : State := { s with ports := { s.ports with initOk := level } }

/-- Every register and buffer of the block takes its reset value (R29, R210); the ports, the radio agent (R211 a)
and the model's own fields do not. -/
def resetBlock (s : State) : State :=
  { State.reset with
    ports := s.ports, chip := s.chip, cfg := s.cfg, script := s.script, now := s.now, trace := s.trace }

/-- `rst` takes a level (R30): asserted, it resets the block; released, the block stands in its reset state. -/
def setRst (level : Bool) (s : State) : State :=
  let s' := { s with ports := { s.ports with rst := level } }
  if level then resetBlock s' else s'

/-! ## The radio agent -/

/-- The `RX_STATUS` byte for what the RX FIFO holds (R66); above 127 bytes the count is free (log 10). -/
def Chip.statusByte (now : Nat) (c : Chip) : Byte :=
  statusByteOf c.rxOvf
    (if c.rxFifo.length ≤ 127 then BitVec.ofNat 7 c.rxFifo.length else Config.freeCount now)

/-- The `k` oldest bytes of the RX FIFO, and beyond its content free bytes (R44, R54; log 11). -/
def Chip.popBytes (now k : Nat) (c : Chip) : List Byte :=
  c.rxFifo.take k ++ (List.range (k - c.rxFifo.length)).map (Config.freePop now)

/-- The radio agent answers a request (R27, R51): `none` when the reply is not one of the request's responses, for
then it does not occur (log 13). No FIFO of the radio agent has a size here, so a burst is never refused for want of
room in the TX FIFO: R45 says that the source gives no size (DESIGN CHOICE, log 29). -/
def Chip.respond (now : Nat) (q : Request) (r : Reply) (c : Chip) : Option (Response × Chip) :=
  match r with
  | .busTimeout => some (.busTimeout, Config.freeChip now)
  | .txUnderflow =>
    match q with
    | .txGo => some (.txUnderflow, { c with txFifo := [], mode := .unknown })
    | _ => none
  | .done =>
    match q with
    | .txfifoBurst bs => some (.ok, { c with txFifo := c.txFifo ++ bs })
    | .txGo => some (.txOk, { c with txFifo := [], mode := .unknown })
    | .rxGo => some (.ok, { c with mode := .receive })
    | .rxStatus => some (.byte (c.statusByte now), c)
    | .rxfifoPop k => some (.bytes (c.popBytes now k), { c with rxFifo := c.rxFifo.drop k })
    | .rxFlush => some (.ok, { c with rxFifo := [], rxOvf := false, mode := .unknown })
    | .addrWrite a => some (.ok, { c with addr := a })

/-- The radio receives bytes: they join the RX FIFO behind what it holds (R47 d, 43_sequencer.md R169). -/
def receive (bs : List Byte) (s : State) : State :=
  { s with chip := { s.chip with rxFifo := s.chip.rxFifo ++ bs } }

/-- The radio receives a frame and appends the two trailer bytes, which are its own (30_encoding.md R64; log 8). -/
def receiveFrame (frame : List Byte) (s : State) : State :=
  receive (frame ++ [Config.freeRssi s.now, Config.freeLqi s.now]) s

/-- Bytes of any value enter the RX FIFO behind what it holds, and with `ovf` it has overflowed, until a flush
(20_memory.md R47 d, R53, 93_implementation_defined.md U4; log 10). -/
def rxArrive (bs : List Byte) (ovf : Bool) (s : State) : State :=
  { s with chip := { s.chip with rxFifo := s.chip.rxFifo ++ bs, rxOvf := s.chip.rxOvf || ovf } }

/-- The chip's own `reset()` (70_reset_and_hazards.md R211 b): it does not touch the block, and replays the device
address from `OWN_ADDR` (log 23). -/
def chipReset (s : State) : State := { s with chip := { s.chip with addr := s.ownAddr, mode := .unknown } }

/-! ## Frames and the address filter -/

/-- `BuildRaw(n)` (R90). -/
def buildRaw (n : Byte) (s : State) : Except Fault State :=
  (memRead .pay 0 n.toNat s).bind fun data => memWrite .txbuf 0 (rawFrame data) s

/-- `BuildAddressed(self, dest, n)` (R91). -/
def buildAddressed (self dest n : Byte) (s : State) : Except Fault State :=
  (memRead .pay 0 n.toNat s).bind fun data => memWrite .txbuf 0 (addressedFrame dest self data) s

/-- `BuildAck(self, peer)` (R92): the destination is the peer. -/
def buildAck (self peer : Byte) (s : State) : Except Fault State :=
  memWrite .txbuf 0 (ackFrame s.cfg peer self) s

/-- The address filter `IsAck(self, peer)` on `RXBUF` (R121). -/
def isAck (self peer : Byte) (s : State) : Bool :=
  decide ((s.byteAt .rxbuf 0).toNat = 2 + s.cfg.ackTagLen) &&
  s.byteAt .rxbuf 1 == self &&
  !isBroadcast s.cfg (s.byteAt .rxbuf 1) &&
  s.byteAt .rxbuf 2 == peer &&
  Mem.readBytes s.rxbuf 3 s.cfg.ackTagLen == s.cfg.ackTag

/-- The auto-reply selector (R122): it looks at the recorded destination and at nothing else. -/
def autoReply (s : State) : Bool := !isBroadcast s.cfg (s.byteAt .rxbuf 1)

end Sys2Proof.Machine
end

