-- ==== Sys2Proof/Machine/Sequencer.lean ====
section
/-! DEFINITION. The sequencer: the transition table of 43_sequencer.md R166 from row 8 on, with `DISPATCH` and
`RETRY`. Rows 1 to 7, the accepting steps, are the meanings of the commands. -/

namespace Sys2Proof.Machine

/-- The request that the state issues (10_state.md R17), if it issues one. -/
def currentRequest (s : State) : Except Fault (Option Request) :=
  match s.fsm with
  | .idle | .ackPoll | .ackTick | .backoff => .ok none
  | .txLoad => (memRead .txbuf 0 ((s.byteAt .txbuf 0).toNat + 1) s).map fun bs => some (.txfifoBurst bs)
  | .txGo => .ok (some .txGo)
  | .txRxgo => .ok (some .rxGo)
  | .rdStatus => .ok (some .rxStatus)
  | .rdLen => .ok (some (.rxfifoPop 1))
  | .rdBody => .ok (some (.rxfifoPop (s.byteAt .rxbuf 0).toNat))
  | .rdTrailer => .ok (some (.rxfifoPop 2))
  | .rdFlush => .ok (some .rxFlush)
  | .rdRxgo => .ok (some .rxGo)
  | .addrWr => .ok (some (.addrWrite (cwA s.cmdw)))

/-- Step 1 of an attempt: build the addressed frame anew and go to transmit it (41_link.md R123, D39). -/
def startAttempt (s : State) : Except Fault State :=
  (buildAddressed s.xSelf s.xPeer s.xN s).map fun s => { s with fsm := .txLoad }

/-- `RETRY`, that is `RetryOrFail()` (41_link.md R125). -/
def retry (s : State) : Except Fault State :=
  if (s.retryCnt + 1).toNat < s.xMaxRetry.toNat then
    if s.cfg.backoffTicks = 0 then startAttempt { s with retryCnt := s.retryCnt + 1, waitCnt := 0 }
    else .ok { s with retryCnt := s.retryCnt + 1, waitCnt := 0, fsm := .backoff }
  else .ok (raiseError .retries { s with retryCnt := s.retryCnt + 1 })

/-- Record the cause of a failed attempt (60_exceptions.md R196 e) and `RETRY`. -/
def failAttempt (cause : ErrCode) (s : State) : Except Fault State :=
  retry { s with err := { s.err with att := cause } }

/-- Rows 11 to 17: `RX_GO` after a transmit has answered `OK`. -/
def afterTransmit (s : State) : Except Fault State :=
  match s.ctx with
  | .sendData | .sendAck => .ok (if s.txres then finish true .ack s else raiseError .txUnderflow s)
  | .autoAck => .ok (finish true .data s)
  | .sendPacket =>
    if s.txres then
      if isBroadcast s.cfg s.xPeer then .ok (finish true .ack s)
      else if 0 < s.cfg.ackTimeoutSteps then .ok { s with waitCnt := 0, rdres := .none, fsm := .ackPoll }
      else failAttempt .ackTimeout { s with waitCnt := 0 }
    else retry s
  | .none | .recvData | .recvHandle | .setAddr => .error .noRow

/-- Write `R_RSSI_RAW` and `R_LQI_RAW` from the record's trailer (40_framer.md R99, 41_link.md R127). -/
def takeTrailer (s : State) : Except Fault State :=
  (memRead .rxbuf ((s.byteAt .rxbuf 0).toNat + 1) 2 s).map fun _ =>
    { s with
      rRssiRaw := s.byteAt .rxbuf ((s.byteAt .rxbuf 0).toNat + 1)
      rLqiRaw := s.byteAt .rxbuf ((s.byteAt .rxbuf 0).toNat + 2) }

/-- `DISPATCH` for `RECV_DATA` (40_framer.md R99). -/
def dispatchRecvData (s : State) : Except Fault State :=
  match s.rdres with
  | .ok => (takeTrailer { s with rLen := s.byteAt .rxbuf 0 }).map (finish true .ack)
  | .empty => .ok (raiseError .empty s)
  | .overflow => .ok (raiseError .rxOverflow s)
  | .oversize => .ok (raiseError .oversized s)
  | .none | .badAck => .error .noRow

/-- `AutoAck()` (41_link.md R128): the reply's source is the recorded destination, its destination the recorded
source. -/
def autoAck (s : State) : Except Fault State :=
  (buildAck (s.byteAt .rxbuf 1) (s.byteAt .rxbuf 2) s).map fun s => { s with ctx := .autoAck, fsm := .txLoad }

/-- The lines of `RECV_HANDLE` for a record with both addresses (41_link.md R127): classify, and reply if the
selector says so. -/
def classify (s : State) : Except Fault State :=
  let s := { s with rLen := s.byteAt .rxbuf 0, rDest := s.byteAt .rxbuf 1, rSrc := s.byteAt .rxbuf 2 }
  if isAck s.xSelf s.xPeer s then .ok (finish true .ack s)
  else
    (takeTrailer s).bind fun s =>
      if autoReply s then autoAck s else .ok (finish true .data s)

/-- `DISPATCH` for `RECV_HANDLE` (41_link.md R127). -/
def dispatchRecvHandle (s : State) : Except Fault State :=
  match s.rdres with
  | .ok =>
    if s.byteAt .rxbuf 0 = 0x00#8 then .ok (raiseError .empty s)
    else if s.byteAt .rxbuf 0 = 0x01#8 then .ok (raiseError .short s)
    else classify s
  | .empty => .ok (raiseError .empty s)
  | .overflow => .ok (raiseError .rxOverflow s)
  | .oversize => .ok (raiseError .oversized s)
  | .none | .badAck => .error .noRow

/-- `DISPATCH` for `SEND_PACKET`, that is `AckWait()` after its read (41_link.md R124). -/
def dispatchSendPacket (s : State) : Except Fault State :=
  match s.rdres with
  | .ok =>
    if isAck s.xSelf s.xPeer s then .ok (finish true .ack s)
    else .ok { s with err := { s.err with att := .badAck }, rdres := .badAck, fsm := .rdRxgo }
  | .badAck => retry s
  | .empty => failAttempt .empty s
  | .overflow => failAttempt .rxOverflow s
  | .oversize => failAttempt .oversized s
  | .none => .error .noRow

/-- `DISPATCH`: by `CTX`. -/
def dispatch (s : State) : Except Fault State :=
  match s.ctx with
  | .recvData => dispatchRecvData s
  | .recvHandle => dispatchRecvHandle s
  | .sendPacket => dispatchSendPacket s
  | .none | .sendData | .sendAck | .autoAck | .setAddr => .error .noRow

/-- Rows 22 to 24: the answer to `RX_STATUS`. -/
def onStatus (b : Byte) (s : State) : Except Fault State :=
  if statusOvf b then .ok { s with rdres := .overflow, fsm := .rdFlush }
  else if statusCnt b = 0#7 then dispatch { s with rdres := .empty }
  else .ok { s with fsm := .rdLen }

/-- Rows 25 to 27: the length byte. -/
def onLength (b : Byte) (s : State) : Except Fault State :=
  if s.cfg.maxLen < b.toNat then memWrite .rxbuf 0 [b] { s with rdres := .oversize, fsm := .rdFlush }
  else if b = 0x00#8 then memWrite .rxbuf 0 [b] { s with fsm := .rdTrailer }
  else memWrite .rxbuf 0 [b] { s with fsm := .rdBody }

/-- Row 28: the payload. -/
def onBody (bs : List Byte) (s : State) : Except Fault State :=
  memWrite .rxbuf 1 bs { s with fsm := .rdTrailer }

/-- Row 29: the trailer. -/
def onTrailer (rssi lqi : Byte) (s : State) : Except Fault State :=
  (memWrite .rxbuf ((s.byteAt .rxbuf 0).toNat + 1) [rssi, lqi] { s with rdres := .ok }).bind dispatch

/-- Rows 8 to 14 and 22 to 35: a response to the request of the state. -/
def onResponse (r : Response) (s : State) : Except Fault State :=
  match r with
  | .busTimeout => .ok (raiseError .busTimeout s)
  | .ok =>
    match s.fsm with
    | .txLoad => .ok { s with fsm := .txGo }
    | .txRxgo => afterTransmit s
    | .rdFlush => .ok { s with fsm := .rdRxgo }
    | .rdRxgo => dispatch s
    | .addrWr => .ok (finish true .ack { s with ownAddr := cwA s.cmdw })
    | _ => .error .noRow
  | .txOk =>
    match s.fsm with
    | .txGo => .ok { s with txres := true, fsm := .txRxgo }
    | _ => .error .noRow
  | .txUnderflow =>
    match s.fsm with
    | .txGo => .ok { s with txres := false, err := { s.err with att := .txUnderflow }, fsm := .txRxgo }
    | _ => .error .noRow
  | .byte b =>
    match s.fsm with
    | .rdStatus => onStatus b s
    | _ => .error .noRow
  | .bytes bs =>
    match s.fsm, bs with
    | .rdLen, [b] => onLength b s
    | .rdBody, bs => onBody bs s
    | .rdTrailer, [rssi, lqi] => onTrailer rssi lqi s
    | _, _ => .error .noRow

/-- The radio agent replies: the outstanding request is answered, the interaction joins the trace, and the row is
taken. While `rst` is asserted no request is issued (R30); with no request outstanding, or with a reply that is not
one of the request's responses, nothing happens (log 13). -/
def onAnswer (r : Reply) (s : State) : Except Fault State :=
  if s.ports.rst then .ok s
  else
    (currentRequest s).bind fun q? =>
      match q? with
      | none => .ok s
      | some q =>
        match s.chip.respond s.now q r with
        | none => .ok s
        | some (resp, chip) => onResponse resp ({ s with chip := chip }.log (.request q resp))

/-- Rows 18 and 19: the `Poll()` inside the ACK wait. In every other state the block polls nothing. -/
def onPoll (s : State) : State :=
  if s.ports.rst then s
  else
    match s.fsm with
    | .ackPoll => { (poll s).2 with fsm := if (poll s).1 then .rdStatus else .ackTick }
    | _ => s

/-- `S_ACK_POLL` waits on nothing (R170): whatever event a step brings while the block of `s` stands there, the poll is
taken in that same step, after the event's own effect has led to `t` (20_memory.md R49, 60_exceptions.md R195; log 2).
In every other state the step is the event's effect alone. -/
def State.thenPoll (s t : State) : State := if s.fsm = .ackPoll then onPoll t else t

/-- Rows 20, 21, 32 and 33: a tick that the block waits for. A tick in every other state has no effect and is not
counted (R169). -/
def onTick (s : State) : Except Fault State :=
  if s.ports.rst then .ok s
  else
    match s.fsm with
    | .ackTick =>
      if s.waitCnt + 1 < s.cfg.ackTimeoutSteps then
        .ok { s.log .tick with waitCnt := s.waitCnt + 1, fsm := .ackPoll }
      else failAttempt .ackTimeout { s.log .tick with waitCnt := s.waitCnt + 1 }
    | .backoff =>
      if s.waitCnt + 1 < s.cfg.backoffTicks then .ok { s.log .tick with waitCnt := s.waitCnt + 1 }
      else startAttempt { s.log .tick with waitCnt := s.waitCnt + 1 }
    | _ => .ok s

end Sys2Proof.Machine
end

