-- ==== Sys2Proof/Machine/Framer.lean ====
section
/-! DEFINITION. The commands that use only the framer: `SEND_DATA`, `RECV_DATA`, `WR_PAY`, `RD_RX`
(40_framer.md R98 to R101); the accepting step of each (43_sequencer.md R166 rows 1, 2, 5). -/

namespace Sys2Proof.Machine

/-- `SEND_DATA` (R98), row 2: `NotReady`, `BadOperand`, or build the raw frame and go to transmit it. -/
def execSendData (n : Byte) (unused : BitVec 24) (s : State) : Host.Outcome State Fault Refusal :=
  begin (wordSendData n unused)
    (requireReady fun s => requireRange (sendDataInRange s.cfg n)
      (fun s => (buildRaw n { s with xN := n }).map fun s => { s with ctx := .sendData, fsm := .txLoad }) s) s

/-- `RECV_DATA` (R99), row 5: `NotReady`, or begin to read. -/
def execRecvData (unused : BitVec 32) (s : State) : Host.Outcome State Fault Refusal :=
  begin (wordRecvData unused)
    (requireReady fun s => .ok { s with rLen := 0x00#8, rdres := .none, ctx := .recvData, fsm := .rdStatus }) s

/-- `WR_PAY` (R100), row 1: `BadOperand`, or store the byte and end. -/
def execWrPay (idx val : Byte) (unused : BitVec 16) (s : State) : Host.Outcome State Fault Refusal :=
  begin (wordWrPay idx val unused)
    (fun s => requireRange (wrPayInRange s.cfg idx)
      (fun s => (memWrite .pay idx.toNat [val] s).map (finish true .ack)) s) s

/-- `RD_RX` (R101), row 1: `BadOperand`, or read the byte and end. -/
def execRdRx (idx : Byte) (unused : BitVec 24) (s : State) : Host.Outcome State Fault Refusal :=
  begin (wordRdRx idx unused)
    (fun s => requireRange (rdRxInRange s.cfg idx)
      (fun s => (memRead .rxbuf idx.toNat 1 s).map fun _ =>
        finish true .ack { s with rdData := s.byteAt .rxbuf idx.toNat }) s) s

end Sys2Proof.Machine
end

