-- ==== Sys2Proof/Machine/Link.lean ====
section
/-! DEFINITION. The commands of the link layer: `SEND_PACKET`, `SEND_ACK`, `RECV_HANDLE` (41_link.md R123, R126,
R127); the accepting step of each (43_sequencer.md R166 rows 1, 3, 4, 6). -/

namespace Sys2Proof.Machine

/-- `SEND_PACKET` (R123), row 3: refuse, or latch the exchange, build the addressed frame and go to transmit it. -/
def execSendPacket (self dest retries n : Byte) (s : State) : Host.Outcome State Fault Refusal :=
  begin (wordSendPacket self dest retries n)
    (requireLink <| requireReady fun s => requireRange (sendPacketInRange s.cfg n)
      (fun s =>
        (buildAddressed self dest n
          { s with xSelf := self, xPeer := dest, xMaxRetry := retries, xN := n, retryCnt := 0x00#8 }).map fun s =>
          { s with ctx := .sendPacket, fsm := .txLoad }) s) s

/-- `SEND_ACK` (R126), row 4: refuse, or latch the exchange, build the ACK frame and go to transmit it. -/
def execSendAck (self peer : Byte) (unused : BitVec 16) (s : State) : Host.Outcome State Fault Refusal :=
  begin (wordSendAck self peer unused)
    (requireLink <| requireReady fun s =>
      (buildAck self peer { s with xSelf := self, xPeer := peer }).map fun s =>
        { s with ctx := .sendAck, fsm := .txLoad }) s

/-- `RECV_HANDLE` (R127), row 6: refuse, or latch the expected exchange and begin to read. -/
def execRecvHandle (self peer : Byte) (unused : BitVec 16) (s : State) : Host.Outcome State Fault Refusal :=
  begin (wordRecvHandle self peer unused)
    (requireLink <| requireReady fun s =>
      .ok { s with
        xSelf := self, xPeer := peer, rLen := 0x00#8, rdres := .none, ctx := .recvHandle, fsm := .rdStatus }) s

end Sys2Proof.Machine
end

