-- ==== Sys2Proof/Machine/System.lean ====
section
/-! DEFINITION. The system commands `PKT_AVAIL`, `SET_ADDR` and the illegal command (42_system.md R150, R153,
R154); the accepting step of each (43_sequencer.md R166 rows 1 and 7). -/

namespace Sys2Proof.Machine

/-- `PKT_AVAIL` (R150), row 1: poll, and end with the result. -/
def execPktAvail (unused : BitVec 32) (s : State) : Host.Outcome State Fault Refusal :=
  begin (wordPktAvail unused) (fun s => .ok (finish (poll s).1 .ack (poll s).2)) s

/-- `SET_ADDR` (R153), row 7: `NotReady`, or go to write the chip's address register. -/
def execSetAddr (addr : Byte) (unused : BitVec 24) (s : State) : Host.Outcome State Fault Refusal :=
  begin (wordSetAddr addr unused) (requireReady fun s => .ok { s with ctx := .setAddr, fsm := .addrWr }) s

/-- The illegal command (R154), row 1: `raise IllegalCmd`, before every other test. -/
def execIllegal (w : CmdWord) (s : State) : Host.Outcome State Fault Refusal :=
  begin w (fun s => .ok (raiseError .illegalCmd s)) s

end Sys2Proof.Machine
end

