-- ==== Sys2Proof/Machine/Air.lean ====
section
/-! DEFINITION. The rows of the opcode table that cross the radio's side. A frame or a record is no command: as an
element of `Instr` it is its reception by this station's radio (30_encoding.md R61 to R64, 43_sequencer.md R169;
log 7). The `RX_STATUS` byte is the radio agent's answer to `RX_STATUS` (30_encoding.md R66, 43_sequencer.md R166
rows 22 to 24; log 9). -/

namespace Sys2Proof.Machine

/-- `FRAME_RAW` (R61): the radio receives the raw frame. -/
def execFrameRaw (data : List Byte) (s : State) : Host.Outcome State Fault Refusal :=
  .next (receiveFrame (rawFrame data) s)

/-- `FRAME_ADDRESSED` (R62): the radio receives the addressed frame. -/
def execFrameAddressed (dest src : Byte) (data : List Byte) (s : State) : Host.Outcome State Fault Refusal :=
  .next (receiveFrame (addressedFrame dest src data) s)

/-- `FRAME_ACK` (R63): the radio receives the ACK frame. -/
def execFrameAck (dest src : Byte) (s : State) : Host.Outcome State Fault Refusal :=
  .next (receiveFrame (ackFrame s.cfg dest src) s)

/-- `RECORD` (R64): the record enters the RX FIFO. -/
def execRecord (payload : List Byte) (rssiRaw lqiCrc : Byte) (s : State) : Host.Outcome State Fault Refusal :=
  .next (receive (recordBytes payload rssiRaw lqiCrc) s)

/-- `RX_STATUS_BYTE` (R66): the answer to `RX_STATUS` when the block has asked for it; otherwise there is nothing
to answer and nothing happens (log 9). -/
def execRxStatusByte (ovf : Bool) (cnt : BitVec 7) (s : State) : Host.Outcome State Fault Refusal :=
  if !s.ports.rst && s.fsm == .rdStatus then
    outcome (onResponse (.byte (statusByteOf ovf cnt))
      (s.log (.request .rxStatus (.byte (statusByteOf ovf cnt)))))
  else .next s

end Sys2Proof.Machine
end

