-- ==== Sys2Proof/Machine/Dispatch.lean ====
section
/-! DEFINITION. The dispatch: one arm per constructor of `Instr`, each one call of its meaning. -/

namespace Sys2Proof.Machine

def exec (i : Instr) (s : State) : Host.Outcome State Fault Refusal :=
  match i with
  | .sendData n unused => Sys2Proof.Machine.execSendData n unused s
  | .sendPacket self dest retries n => Sys2Proof.Machine.execSendPacket self dest retries n s
  | .sendAck self peer unused => Sys2Proof.Machine.execSendAck self peer unused s
  | .recvData unused => Sys2Proof.Machine.execRecvData unused s
  | .recvHandle self peer unused => Sys2Proof.Machine.execRecvHandle self peer unused s
  | .pktAvail unused => Sys2Proof.Machine.execPktAvail unused s
  | .setAddr addr unused => Sys2Proof.Machine.execSetAddr addr unused s
  | .wrPay idx val unused => Sys2Proof.Machine.execWrPay idx val unused s
  | .rdRx idx unused => Sys2Proof.Machine.execRdRx idx unused s
  | .illegal w => Sys2Proof.Machine.execIllegal w s
  | .frameRaw data => Sys2Proof.Machine.execFrameRaw data s
  | .frameAddressed dest src data => Sys2Proof.Machine.execFrameAddressed dest src data s
  | .frameAck dest src => Sys2Proof.Machine.execFrameAck dest src s
  | .record payload rssiRaw lqiCrc => Sys2Proof.Machine.execRecord payload rssiRaw lqiCrc s
  | .rxStatusByte ovf cnt => Sys2Proof.Machine.execRxStatusByte ovf cnt s

end Sys2Proof.Machine
end

