-- ==== Sys2Proof/Machine/Fetch.lean ====
section
/-! DEFINITION. Where a step takes its event from: the script, and after it the free events (log 2). -/

namespace Sys2Proof.Machine

/-- The next event: the head of the script, or a free event when the script is empty. -/
def State.nextEvent (s : State) : Event :=
  match s.script with
  | e :: _ => e
  | [] => Config.freeEvent s.now

/-- The state past its next event. -/
def State.advance (s : State) : State := { s with script := s.script.tail, now := s.now + 1 }

/-- Bits put before the script, so that the next step takes them. -/
def State.present (s : State) (c : Code) : State := { s with script := .code c :: s.script }

/-- Bytes on the air that are no frame or record of their format: the radio receives nothing (log 15). -/
def dropUndecoded (s : State) : State := s

end Sys2Proof.Machine
end

