-- ==== Sys2Proof/Machine/React.lean ====
section
/-! DEFINITION. What one event does, and when the poll follows it (43_sequencer.md R165, R169, R170; log 2). -/

namespace Sys2Proof.Machine

/-- The effect of the next event: bits that arrive are decoded and executed, any other event acts as its rule says. -/
def react (s : State) : Host.Outcome State Fault Refusal :=
  match s.nextEvent with
  | .code c =>
    match decode s.cfg c with
    | .ok i => exec i s.advance
    | .error _ => .next (dropUndecoded s.advance)
  | .answer r => outcome (onAnswer r s.advance)
  | .poll => .next s.advance
  | .tick => outcome (onTick s.advance)
  | .rst level => .next (setRst level s.advance)
  | .initOk level => .next (setInitOk level s.advance)
  | .dataReady level => .next (setDataReady level s.advance)
  | .rxArrive bs ovf => .next (rxArrive bs ovf s.advance)
  | .chipReset => .next (chipReset s.advance)

/-- What a step from `s` makes of its event's outcome: the poll follows in the state that waits on nothing. -/
def State.settle (s : State) (o : Host.Outcome State Fault Refusal) : Host.Outcome State Fault Refusal :=
  match o with
  | .next t => .next (s.thenPoll t)
  | .fault f => .fault f
  | .refused r => .refused r

end Sys2Proof.Machine
end

