-- ==== Sys2Proof/Machine/Step.lean ====
section
/-! DEFINITION. One step of the machine: one event, and the poll that does not wait for one (43_sequencer.md R165, R169,
R170; log 2). -/

namespace Sys2Proof.Machine

/-- One step: the effect of the next event, and in `S_ACK_POLL` the poll. -/
def step (s : State) : Host.Outcome State Fault Refusal := s.settle (react s)

/-- The bits of a row of the opcode table as the next event (log 3). -/
def State.withFetchWord (s : State) (nbits w : Nat) : State := s.present (tableCode nbits w)

end Sys2Proof.Machine
end

