-- ==== Sys2Proof/Safety.lean ====
section
/-! DEFINITION. What the claims speak of: the opcode of a command, the invariant of the machine, what lifts a wait
(43_sequencer.md R170), how many interactions a command can still owe (R170), the number of transmits in a trace
(41_link.md R129), the named premises of 20_memory.md R52, and what commands, builders and reads leave in the
state. -/

namespace Sys2Proof

/-- The opcode that 30_encoding.md R71 gives a command; the illegal rows and the rows of the radio's side have none. -/
def Instr.opcode : Instr → Option Byte
  | .sendData _ _ => some 0x01#8
  | .sendPacket _ _ _ _ => some 0x02#8
  | .sendAck _ _ _ => some 0x03#8
  | .recvData _ => some 0x04#8
  | .recvHandle _ _ _ => some 0x05#8
  | .pktAvail _ => some 0x06#8
  | .setAddr _ _ => some 0x07#8
  | .wrPay _ _ _ => some 0x08#8
  | .rdRx _ _ => some 0x09#8
  | .illegal _ => none
  | .frameRaw _ => none
  | .frameAddressed _ _ _ => none
  | .frameAck _ _ => none
  | .record _ _ _ => none
  | .rxStatusByte _ _ => none

end Sys2Proof

namespace Sys2Proof.Machine

/-- The (`FSM`, `CTX`) pairs that the transition table of R166 reaches. -/
def pairReached (f : Fsm) (c : Ctx) : Bool :=
  match f with
  | .idle => c == .none
  | .txLoad | .txGo | .txRxgo => c == .sendData || c == .sendPacket || c == .sendAck || c == .autoAck
  | .ackPoll | .ackTick | .backoff => c == .sendPacket
  | .rdStatus | .rdLen | .rdBody | .rdTrailer | .rdFlush | .rdRxgo =>
    c == .recvData || c == .recvHandle || c == .sendPacket
  | .addrWr => c == .setAddr

/-- The opcode of the command a `CTX` stands for (R17, R71). -/
def Ctx.opcode : Ctx → Option Byte
  | .none => Option.none
  | .sendData => some 0x01#8
  | .sendPacket => some 0x02#8
  | .sendAck => some 0x03#8
  | .recvData => some 0x04#8
  | .recvHandle => some 0x05#8
  | .autoAck => some 0x05#8
  | .setAddr => some 0x07#8

/-- The attempts a `SEND_PACKET` may make: `max(X_MAXRETRY, 1)` (41_link.md R129, 40_framer.md R103 c). -/
def State.budget (s : State) : Nat := max s.xMaxRetry.toNat 1

/-- The results are clear, as acceptance leaves them (42_system.md R155). -/
def State.ResultsClear (s : State) : Prop :=
  s.status.done = false ∧ s.status.ok = false ∧ s.status.rxcode = .ack ∧ s.err.code = .none

/-- The invariant of the machine: what holds in the reset state of an instance with admitted parameters and is kept
by every step. It says that the parameters are in range (R6), every buffer is in canonical form and inside its space
(R40, R42), `FSM`, `CTX` and `BUSY` agree (R17) and stand for the command in `CMDW` (R197), a command in progress has
no result yet (R155), and every length and counter that the sequencer will use is in range (R42, R67, R103). -/
structure State.Inv (s : State) : Prop where
  params : s.cfg.wf = true
  payForm : Mem.wf s.pay = true ∧ Mem.within (Space.size s.cfg .pay) s.pay = true
  txForm : Mem.wf s.txbuf = true ∧ Mem.within (Space.size s.cfg .txbuf) s.txbuf = true
  rxForm : Mem.wf s.rxbuf = true ∧ Mem.within (Space.size s.cfg .rxbuf) s.rxbuf = true
  pair : pairReached s.fsm s.ctx = true
  busy : s.status.busy = true ↔ s.fsm ≠ .idle
  results : s.status.busy = true → s.ResultsClear
  held : s.ports.rst = true → s.fsm = .idle
  command : ∀ op, s.ctx.opcode = some op → cwOp s.cmdw = op ∧ opAssigned s.cfg.linkLayer op = true
  txLen : s.fsm = .txLoad → (s.byteAt .txbuf 0).toNat ≤ s.cfg.maxLen
  bodyLen : s.fsm = .rdBody → 1 ≤ (s.byteAt .rxbuf 0).toNat ∧ (s.byteAt .rxbuf 0).toNat ≤ s.cfg.maxLen
  trailerLen : s.fsm = .rdTrailer → (s.byteAt .rxbuf 0).toNat ≤ s.cfg.maxLen
  flushed : s.fsm = .rdFlush → s.rdres = .overflow ∨ s.rdres = .oversize
  resumed : s.fsm = .rdRxgo → s.rdres = .overflow ∨ s.rdres = .oversize ∨ (s.rdres = .badAck ∧ s.ctx = .sendPacket)
  dataLen : s.ctx = .sendPacket → s.xN.toNat + 2 ≤ s.cfg.maxLen
  attempts : s.ctx = .sendPacket → s.retryCnt.toNat < s.budget
  waitBound : s.waitCnt ≤ max s.cfg.ackTimeoutSteps s.cfg.backoffTicks
  ackWait : s.fsm = .ackPoll ∨ s.fsm = .ackTick → s.waitCnt < s.cfg.ackTimeoutSteps
  backoffWait : s.fsm = .backoff → s.waitCnt < s.cfg.backoffTicks
  flagBound : s.rxFlag ≤ s.cfg.rxFlagDepth

/-- The states that issue a request (R170: 1, 2, 3, 6 to 11, 13). -/
def Fsm.requests : Fsm → Bool
  | .idle | .ackPoll | .ackTick | .backoff => false
  | _ => true

/-- The event brings what the state waits for (R170): the radio agent's response, or a tick. `S_ACK_POLL` waits on
nothing, so there every event but `rst` does. -/
def State.awaits (s : State) (e : Event) : Bool :=
  !s.ports.rst &&
  match e with
  | .answer .txUnderflow => s.fsm == .txGo || s.fsm == .ackPoll
  | .answer _ => s.fsm.requests || s.fsm == .ackPoll
  | .code (.status _) => s.fsm == .rdStatus || s.fsm == .ackPoll
  | .tick => s.fsm == .ackTick || s.fsm == .backoff || s.fsm == .ackPoll
  | .rst true => false
  | _ => s.fsm == .ackPoll

/-- An attempt of `SEND_PACKET` makes at most `3 + 2T + 6` interactions (R170). -/
def attemptCost (p : Params) : Nat := 3 + 2 * p.ackTimeoutSteps + 6

/-- The interactions of the current attempt, read or transmit that are still owed at most. -/
def State.phase (s : State) : Nat :=
  let read : Nat → Nat := fun k => match s.ctx with | .recvHandle => k + 3 | _ => k
  let sent : Nat := match s.ctx with | .sendPacket => 2 * s.cfg.ackTimeoutSteps + 6 | _ => 0
  match s.fsm with
  | .idle => 0
  | .txLoad => sent + 3
  | .txGo => sent + 2
  | .txRxgo => sent + 1
  | .ackPoll => 2 * (s.cfg.ackTimeoutSteps - s.waitCnt) + 5
  | .ackTick => 2 * (s.cfg.ackTimeoutSteps - s.waitCnt) + 4
  | .rdStatus => read 5
  | .rdLen => read 4
  | .rdBody => read 3
  | .rdTrailer => read 2
  | .rdFlush => read 2
  | .rdRxgo => read 1
  | .backoff => (s.cfg.backoffTicks - s.waitCnt) + attemptCost s.cfg
  | .addrWr => 1

/-- The interactions the command in progress still owes at most (R170): the current phase, and for `SEND_PACKET` the
attempts left, each with its backoff. -/
def State.remaining (s : State) : Nat :=
  s.phase +
  match s.ctx with
  | .sendPacket => (s.budget - 1 - s.retryCnt.toNat) * (attemptCost s.cfg + s.cfg.backoffTicks)
  | _ => 0

/-- The number of `TX_GO` requests in a trace (R129). -/
def txGoCount (t : List Interaction) : Nat :=
  t.countP fun i => match i with | .request .txGo _ => true | _ => false

/-- In a `SEND_PACKET` the number of `TX_GO` requests so far is the number of failed attempts, and one more once the
attempt in progress has transmitted (R129). -/
def State.TransmitsCounted (s : State) : Prop :=
  s.ctx = .sendPacket →
    txGoCount s.trace =
      s.retryCnt.toNat + (match s.fsm with | .txLoad | .txGo | .backoff => 0 | _ => 1)

/-- `k` steps of the machine lead from `s` to `t`. -/
def reaches (k : Nat) (s t : State) : Prop := Host.Core.run core k s = .next t

/-- The command in progress in `s` does not end within `k` steps. -/
def State.InProgress (k : Nat) (s : State) : Prop := ∀ j t, j ≤ k → reaches j s t → t.status.busy = true

/-- Premise `BUS_RESPONDS` (R52) for the command in progress in `s`: every request of it is eventually answered. -/
def BusResponds (s : State) : Prop :=
  ∀ k t, s.InProgress k → reaches k s t → t.fsm.requests = true → ∃ j u, reaches j t u ∧ u.awaits u.nextEvent = true

/-- Premise `TICKS_ARRIVE` (R52) for the command in progress in `s`: a waiting state gets its tick. -/
def TicksArrive (s : State) : Prop :=
  ∀ k t, s.InProgress k → reaches k s t → (t.fsm = .ackTick ∨ t.fsm = .backoff) →
    ∃ j u, reaches j t u ∧ u.awaits u.nextEvent = true

/-- The RX FIFO begins with a complete record (30_encoding.md R64). -/
def Chip.recordComplete (c : Chip) : Bool :=
  match c.rxFifo with
  | [] => false
  | len :: rest => decide (len.toNat + 2 ≤ rest.length)

/-- The answer to `RX_STATUS` that the next event of `s` gives, if it gives one. -/
def State.statusAnswer (s : State) : Option Byte :=
  match s.nextEvent with
  | .answer .done => some (s.chip.statusByte (s.now + 1))
  | .code (.status b) => some b
  | _ => none

/-- Premise `RX_RECORD_COMPLETE` (R52) for the next `n` steps from `s`: whenever `RX_STATUS` is answered with the
overflow bit clear and a nonzero count, the RX FIFO begins with a complete record. -/
def RxRecordComplete (n : Nat) (s : State) : Prop :=
  ∀ k t b, k < n → reaches k s t → t.fsm = .rdStatus → t.awaits t.nextEvent = true → t.statusAnswer = some b →
    statusOvf b = false → statusCnt b ≠ 0#7 → t.chip.recordComplete = true

/-- What is left of the record that is being read is whole in the RX FIFO: before its length byte, before its payload,
before its trailer (40_framer.md R94). A state in which no record is being read has nothing left of one. -/
def State.RecordAhead (s : State) : Prop :=
  (s.fsm = .rdLen → s.chip.recordComplete = true) ∧
  (s.fsm = .rdBody → (s.byteAt .rxbuf 0).toNat + 2 ≤ s.chip.rxFifo.length) ∧
  (s.fsm = .rdTrailer → 2 ≤ s.chip.rxFifo.length)

/-- The bytes are whole records (R64), at most `n` of them, and each has a destination byte, which is `addr` or the
broadcast address. A record of length 0 has none: its second byte is the RSSI (log 30). -/
def recordsFor (p : Params) (addr : Byte) : Nat → List Byte → Bool
  | _, [] => true
  | 0, _ :: _ => false
  | n + 1, len :: rest =>
    decide (1 ≤ len.toNat) && decide (len.toNat + 2 ≤ rest.length) &&
    (match rest with
      | [] => false
      | dest :: _ => dest == addr || isBroadcast p dest) &&
    recordsFor p addr n (rest.drop (len.toNat + 2))

/-- The bytes are whole records for `addr` or for all. -/
def framesFor (p : Params) (addr : Byte) (bs : List Byte) : Bool := recordsFor p addr bs.length bs

/-- The next event brings bytes to the RX FIFO. -/
def State.delivers (s : State) : Bool :=
  match s.nextEvent with
  | .code (.bytes _ _) => true
  | .rxArrive _ _ => true
  | _ => false

/-- The bytes that the step from `s` to `t` has delivered behind what the RX FIFO held. -/
def State.delivered (s t : State) : List Byte :=
  if s.delivers then t.chip.rxFifo.drop s.chip.rxFifo.length else []

/-- Premise `CHIP_FILTERS` (R52) for the next `n` steps from `s`: every delivery consists of frames whose destination
byte is the device address that the chip has then, or the broadcast address. -/
def ChipFilters (n : Nat) (s : State) : Prop :=
  ∀ k t u, k < n → reaches k s t → step t = .next u → framesFor t.cfg t.chip.addr (t.delivered u) = true

/-! ## What a buffer holds -/

/-- `TXBUF` after `BuildRaw(n)` (40_framer.md R90): `new` from `pay` and the old content. -/
def RawBuilt (n : Byte) (pay old new : Mem) : Prop :=
  Mem.read new 0 = n ∧ (∀ i < n.toNat, Mem.read new (1 + i) = Mem.read pay i) ∧
  ∀ i, n.toNat < i → Mem.read new i = Mem.read old i

/-- `TXBUF` after `BuildAddressed(self, dest, n)` (R91). -/
def AddressedBuilt (self dest n : Byte) (pay old new : Mem) : Prop :=
  (Mem.read new 0).toNat = n.toNat + 2 ∧ Mem.read new 1 = dest ∧ Mem.read new 2 = self ∧
  (∀ i < n.toNat, Mem.read new (3 + i) = Mem.read pay i) ∧
  ∀ i, n.toNat + 2 < i → Mem.read new i = Mem.read old i

/-- `TXBUF` after `BuildAck(self, peer)` (R92). -/
def AckBuilt (p : Params) (self peer : Byte) (old new : Mem) : Prop :=
  (Mem.read new 0).toNat = 2 + p.ackTagLen ∧ Mem.read new 1 = peer ∧ Mem.read new 2 = self ∧
  (∀ i (h : i < p.ackTag.length), Mem.read new (3 + i) = p.ackTag[i]) ∧
  ∀ i, 2 + p.ackTagLen < i → Mem.read new i = Mem.read old i

/-- `RXBUF` after a record has been read into it (10_state.md R13, R94): exactly its positions are written. -/
def RecordRead (payload : List Byte) (t0 t1 : Byte) (old new : Mem) : Prop :=
  (Mem.read new 0).toNat = payload.length ∧
  (∀ i (h : i < payload.length), Mem.read new (1 + i) = payload[i]) ∧
  Mem.read new (payload.length + 1) = t0 ∧ Mem.read new (payload.length + 2) = t1 ∧
  ∀ i, payload.length + 2 < i → Mem.read new i = Mem.read old i

/-- The frame, the trailer and what stands behind them: the content of an RX FIFO that begins with this record
(30_encoding.md R64). -/
def fifoWith (payload : List Byte) (t0 t1 : Byte) (rest : List Byte) : List Byte :=
  lenByte payload.length :: (payload ++ t0 :: t1 :: rest)

/-- The lines that a read of a record adds to the trace (R94, R77), after the answer `b` to `RX_STATUS`. -/
def readLines (b : Byte) (payload : List Byte) (t0 t1 : Byte) : List Interaction :=
  .request .rxStatus (.byte b) :: .request (.rxfifoPop 1) (.bytes [lenByte payload.length]) ::
  ((if payload = [] then [] else [.request (.rxfifoPop payload.length) (.bytes payload)]) ++
    [.request (.rxfifoPop 2) (.bytes [t0, t1])])

/-- The number of answers that a read of a record takes (R94): no pop of zero bytes. -/
def readAnswers (payload : List Byte) : Nat := if payload = [] then 3 else 4

/-- The lines that one transmit adds to the trace (R93, R77): the frame, `TX_GO` with its answer, `RX_GO`. -/
def transmitLines (frame : List Byte) (sent : Bool) : List Interaction :=
  [.request (.txfifoBurst frame) .ok, .request .txGo (if sent then .txOk else .txUnderflow), .request .rxGo .ok]

/-- The reply to `TX_GO` that says so. -/
def sentReply (sent : Bool) : Reply := if sent then .done else .txUnderflow

/-! ## What a command leaves

The trace that acceptance empties is a field of the model's own (log 22). -/

/-- `s` with command `w` accepted and in progress at (`f`, `c`) (42_system.md R155, 43_sequencer.md R166). -/
def State.started (w : CmdWord) (c : Ctx) (f : Fsm) (s : State) : State :=
  { s with
    cmdw := w
    status := { busy := true, done := false, ok := false, rxcode := .ack }
    err := { code := .none, att := .none }
    ctx := c
    fsm := f
    trace := [] }

/-- `s` with command `w` accepted and ended in the same step with result `ok` (R155, R157). -/
def State.completed (w : CmdWord) (ok : Bool) (s : State) : State :=
  { s with
    cmdw := w
    status := { busy := false, done := true, ok := ok, rxcode := .ack }
    err := { code := .none, att := .none }
    ctx := .none
    fsm := .idle
    trace := [] }

/-- `s` with command `w` accepted and refused with `e` in the same step (R155, R156). -/
def State.refused (w : CmdWord) (e : ErrCode) (rx : RxCode) (s : State) : State :=
  { s with
    cmdw := w
    status := { busy := false, done := true, ok := false, rxcode := rx }
    err := { code := e, att := .none }
    ctx := .none
    fsm := .idle
    trace := [] }

/-- The command makes a request and its first lines do not refuse it (R156, 60_exceptions.md R183, R191, R192). -/
def transfers (i : Instr) (s : State) : Bool :=
  s.ports.initOk &&
  match i with
  | .sendData n _ => decide (n.toNat ≤ s.cfg.maxLen)
  | .sendPacket _ _ _ n => s.cfg.linkLayer && decide (n.toNat + 2 ≤ s.cfg.maxLen)
  | .sendAck _ _ _ => s.cfg.linkLayer
  | .recvData _ => true
  | .recvHandle _ _ _ => s.cfg.linkLayer
  | .setAddr _ _ => true
  | .pktAvail _ => false
  | .wrPay _ _ _ => false
  | .rdRx _ _ => false
  | .illegal _ => false
  | .frameRaw _ => false
  | .frameAddressed _ _ _ => false
  | .frameAck _ _ => false
  | .record _ _ _ => false
  | .rxStatusByte _ _ => false

/-- The `RXCODE` of a command that a failed read ends (60_exceptions.md R197). -/
def Ctx.failCode : Ctx → RxCode
  | .recvHandle => .badFrame
  | .autoAck => .badFrame
  | _ => .ack

/-- What a failed attempt of `SEND_PACKET` makes of `s` (R124, R125): the cause is recorded, the attempt counted, and
the command goes on to the next attempt while `RETRY_CNT < X_MAXRETRY`, through the backoff if there is one, and ends
`RetriesExhausted` otherwise. No other register is written than those named. -/
def State.AttemptFailed (cause : ErrCode) (s t : State) : Prop :=
  t = { s with
    txbuf := t.txbuf, rxbuf := t.rxbuf, fsm := t.fsm, ctx := t.ctx, rdres := t.rdres, txres := t.txres,
    status := t.status, err := t.err, retryCnt := t.retryCnt, waitCnt := t.waitCnt, chip := t.chip,
    script := t.script, now := t.now, trace := t.trace } ∧
  t.err.att = cause ∧ t.retryCnt.toNat = s.retryCnt.toNat + 1 ∧
  (s.retryCnt.toNat + 1 < s.xMaxRetry.toNat →
    t.ctx = .sendPacket ∧ t.status = s.status ∧ t.err.code = s.err.code ∧ t.waitCnt = 0 ∧
    (s.cfg.backoffTicks = 0 → t.fsm = .txLoad ∧
      AddressedBuilt s.xSelf s.xPeer s.xN s.pay s.txbuf t.txbuf) ∧
    (0 < s.cfg.backoffTicks → t.fsm = .backoff ∧ t.txbuf = s.txbuf)) ∧
  (s.xMaxRetry.toNat ≤ s.retryCnt.toNat + 1 →
    t.fsm = .idle ∧ t.ctx = .none ∧ t.err.code = .retries ∧ t.txbuf = s.txbuf ∧
    t.status = { busy := false, done := true, ok := false, rxcode := .ack })

/-- `t` differs from `s` at most outside the sequencer: in the ports, the radio agent, `RX_FLAG`, and the model's own
fields. -/
def State.SameBlock (s t : State) : Prop :=
  t = { s with
    ports := t.ports, chip := t.chip, rxFlag := t.rxFlag, script := t.script, now := t.now, trace := t.trace }

end Sys2Proof.Machine
end

