-- ==== Sys2Proof/Certificates/Slice0/Obligations.lean ====
section
/-! DEFINITION. The statements for the provers. A statement about a command gives the whole next state, so that it is
also the command's frame. -/

open Sys2Proof Sys2Proof.Machine

/-! ## Encodings -/

/-- 30_encoding.md R60 to R72: every well-formed row of the opcode table is read back from its own bits, with every
operand at every value. -/
def Obligations.DecodeEncodeRoundTrip : Prop :=
  ∀ (p : Params) (i : Instr), p.wf = true → i.wf p = true → decode p (encode p i) = .ok i

/-- The other direction: what the decoder reads is well-formed, and its encoding is exactly the bits it was read from,
so no two codes share an instruction and no bit is dropped. For command words that is the model's choice: its instructions
keep the bits that a command does not use (log 18), so two words that R70 calls the same command are two instructions;
what those bits do is `Obligations.UnusedOperandBitsAreIgnored`. -/
def Obligations.DecodedBitsEncodeBack : Prop :=
  ∀ (p : Params) (c : Code) (i : Instr), decode p c = .ok i → encode p i = c ∧ i.wf p = true

/-- Words, bytes and byte strings that 95_test_vectors.md (V20, V22, V26, V40 to V49, P2) writes out. -/
def Obligations.WrittenOutWordsDecode : Prop :=
  decode Params.standard (.word 0x0100000003#40) = .ok (.sendData 3#8 0#24) ∧
  decode Params.standard (.word 0x0201030302#40) = .ok (.sendPacket 0x01#8 0x03#8 3#8 2#8) ∧
  decode Params.standard (.word 0x0303010000#40) = .ok (.sendAck 0x03#8 0x01#8 0#16) ∧
  decode Params.standard (.word 0x04FFFFFFFF#40) = .ok (.recvData 0xFFFFFFFF#32) ∧
  decode Params.standard (.word 0x0801690000#40) = .ok (.wrPay 1#8 0x69#8 0#16) ∧
  decode Params.standard (.word 0xFF12345678#40) = .ok (.illegal 0xFF12345678#40) ∧
  decode Params.standard (.status 0xC0#8) = .ok (.rxStatusByte true 0x40#7) ∧
  decode Params.standard (.bytes .addressed [0x04#8, 0x03#8, 0x01#8, 0x48#8, 0x69#8]) =
    .ok (.frameAddressed 0x03#8 0x01#8 [0x48#8, 0x69#8]) ∧
  decode Params.standard (.bytes .record [0x04#8, 0x03#8, 0x01#8, 0x48#8, 0x69#8, 0x3C#8, 0xB0#8]) =
    .ok (.record [0x03#8, 0x01#8, 0x48#8, 0x69#8] 0x3C#8 0xB0#8)

/-- R72: a word whose `OP` is none of 0x01 to 0x09 is illegal, and so is one with `OP` 0x02, 0x03 or 0x05 when
`LINK_LAYER` is false; every other word is one of the nine commands. -/
def Obligations.UnassignedOpcodesAreIllegal : Prop :=
  ∀ (link : Bool) (w : CmdWord),
    ((cwOp w = 0#8 ∨ 0x0A ≤ (cwOp w).toNat) → decodeWord link w = .illegal w) ∧
    (link = false → (cwOp w = 0x02#8 ∨ cwOp w = 0x03#8 ∨ cwOp w = 0x05#8) → decodeWord link w = .illegal w) ∧
    (1 ≤ (cwOp w).toNat → (cwOp w).toNat ≤ 9 →
      (link = true ∨ (cwOp w ≠ 0x02#8 ∧ cwOp w ≠ 0x03#8 ∧ cwOp w ≠ 0x05#8)) →
      (decodeWord link w).opcode = some (cwOp w))

/-- R70, 93_implementation_defined.md U7: a command ignores the fields it does not use. Whatever stands there, the
outcome is the same but for `CMDW`, which holds the word as it was sampled (log 18). -/
def Obligations.UnusedOperandBitsAreIgnored : Prop :=
  ∀ (s : State) (a b : Byte) (u16 v16 : BitVec 16) (u24 v24 : BitVec 24) (u32 v32 : BitVec 32),
    let same := fun (i j : Instr) =>
      ∃ t t', exec i s = .next t ∧ exec j s = .next t' ∧ { t with cmdw := 0#40 } = { t' with cmdw := 0#40 }
    s.cfg.wf = true →
      same (.sendData a u24) (.sendData a v24) ∧ same (.sendAck a b u16) (.sendAck a b v16) ∧
      same (.recvData u32) (.recvData v32) ∧ same (.recvHandle a b u16) (.recvHandle a b v16) ∧
      same (.pktAvail u32) (.pktAvail v32) ∧ same (.setAddr a u24) (.setAddr a v24) ∧
      same (.wrPay a b u16) (.wrPay a b v16) ∧ same (.rdRx a u24) (.rdRx a v24)

/-! ## Computed values -/

/-- 40_framer.md R95: the piecewise formula with division truncating toward zero, for every raw byte and every
offset; where it differs from a flooring division; the range; that ten bits hold it; and the worked example. -/
def Obligations.RssiFollowsThePiecewiseFormula : Prop :=
  (∀ (r o : Byte),
    (r.toNat < 128 → rssiToDbm r o = ((r.toNat / 2 : Nat) : Int) - o.toNat) ∧
    (128 ≤ r.toNat → rssiToDbm r o = -(((256 - r.toNat) / 2 : Nat) : Int) - o.toNat) ∧
    (r.toNat % 2 = 1 → 129 ≤ r.toNat → rssiToDbm r o = Int.fdiv ((r.toNat : Int) - 256) 2 + 1 - o.toNat) ∧
    ((r.toNat % 2 = 0 ∧ 128 ≤ r.toNat) → rssiToDbm r o = Int.fdiv ((r.toNat : Int) - 256) 2 - o.toNat) ∧
    -64 - (o.toNat : Int) ≤ rssiToDbm r o ∧ rssiToDbm r o ≤ 63 - (o.toNat : Int) ∧
    -512 ≤ rssiToDbm r o ∧ rssiToDbm r o ≤ 511) ∧
  (∀ s : State, s.rssiDbm = rssiToDbm s.rRssiRaw s.cfg.rssiOffset) ∧
  rssiToDbm 0x3C#8 74#8 = -44

/-- R96, R97: `LQI` is bits 6:0 of the byte, at most 127, and CRC-OK its bit 7. -/
def Obligations.LqiAndCrcOkSplitTheByte : Prop :=
  ∀ b : Byte,
    lqiConvert b = b &&& 0x7F#8 ∧ (lqiConvert b).toNat = b.toNat % 128 ∧ (lqiConvert b).toNat ≤ 127 ∧
    (crcOk b = true ↔ b &&& 0x80#8 ≠ 0#8) ∧ (crcOk b = true ↔ 128 ≤ b.toNat)

/-- 10_state.md R19, R20, R26: the places of the fields of `STATUS` and `ERR`, and `cmd_ready`; 30_encoding.md R73, R74
and 10_state.md R17, R18: the numbers of `RXCODE`, of the errors, and of `FSM`, `CTX` and `RDRES`. -/
def Obligations.StatusAndErrBitPlaces : Prop :=
  (∀ st : Status,
    st.word.getLsbD 0 = st.busy ∧ st.word.getLsbD 1 = st.done ∧ st.word.getLsbD 2 = st.ok ∧
    st.word.extractLsb' 3 2 = st.rxcode.code ∧ st.word.extractLsb' 5 3 = 0#3) ∧
  (∀ e : Err, e.word.extractLsb' 0 4 = e.code.code ∧ e.word.extractLsb' 4 4 = e.att.code) ∧
  (∀ s : State, s.cmdReady = true ↔ s.status.word.getLsbD 0 = false) ∧
  [RxCode.ack, .data, .badFrame, .timeout].map (fun c => c.code.toNat) = [0, 1, 2, 3] ∧
  [ErrCode.none, .busTimeout, .notReady, .txUnderflow, .rxOverflow, .oversized, .badAck, .retries, .ackTimeout,
    .short, .empty, .badOperand, .illegalCmd].map (fun c => c.code.toNat) =
    [0, 1, 2, 3, 4, 5, 6, 7, 8, 9, 10, 11, 12] ∧
  [Fsm.idle, .txLoad, .txGo, .txRxgo, .ackPoll, .ackTick, .rdStatus, .rdLen, .rdBody, .rdTrailer, .rdFlush, .rdRxgo,
    .backoff, .addrWr].map (fun c => c.code.toNat) = [0, 1, 2, 3, 4, 5, 6, 7, 8, 9, 10, 11, 12, 13] ∧
  [Ctx.none, .sendData, .sendPacket, .sendAck, .recvData, .recvHandle, .autoAck, .setAddr].map
    (fun c => c.code.toNat) = [0, 1, 2, 3, 4, 5, 6, 7] ∧
  [RdRes.none, .ok, .empty, .overflow, .oversize, .badAck].map (fun c => c.code.toNat) = [0, 1, 2, 3, 4, 5]

/-! ## Reset -/

/-- 10_state.md R29: the table of reset values, with the derived outputs it names. -/
def Obligations.ResetStateIsTheTable : Prop :=
  let s := State.reset
  (∀ sp i, s.byteAt sp i = 0x00#8) ∧
  s.rLen = 0#8 ∧ s.rDest = 0#8 ∧ s.rSrc = 0#8 ∧ s.rRssiRaw = 0#8 ∧ s.rLqiRaw = 0#8 ∧ s.rdData = 0#8 ∧
  s.lqi = 0#8 ∧ s.crcOkOut = false ∧ s.rssiDbm = -(s.cfg.rssiOffset.toNat : Int) ∧
  s.fsm.code = 0#4 ∧ s.ctx.code = 0#3 ∧ s.rdres.code = 0#3 ∧ s.txres = false ∧ s.cmdw = 0#40 ∧
  s.status.word = 0x00#8 ∧ s.err.word = 0x00#8 ∧ s.ownAddr = 0#8 ∧
  s.xSelf = 0#8 ∧ s.xPeer = 0#8 ∧ s.xMaxRetry = 0#8 ∧ s.xN = 0#8 ∧ s.retryCnt = 0#8 ∧
  s.waitCnt = 0 ∧ s.rxFlag = 0

/-- R30, 70_reset_and_hazards.md R210, R211 (a): in every state, busy or idle, asserting `rst` gives every register
and buffer of the block its reset value and leaves the radio agent, the other inputs and the parameters as they are;
releasing it changes nothing more (a release in `S_ACK_POLL`, where `rst` is not asserted, lets the poll pass). That
the trace, a field of the model's own, is kept is the model's choice (log 22). -/
def Obligations.RstResetsTheBlockOnly : Prop :=
  ∀ s : State,
    (s.nextEvent = .rst true → step s = .next { State.reset with
      ports := { s.ports with rst := true }, chip := s.chip, cfg := s.cfg, script := s.script.tail,
      now := s.now + 1, trace := s.trace }) ∧
    (s.nextEvent = .rst false →
      step s = .next (s.thenPoll { s.advance with ports := { s.ports with rst := false } }))

/-- R30, R212: while `rst` is asserted no command is accepted, no request is issued or answered, nothing is polled,
no tick counts and an edge is lost: the step changes the level of `data_ready` at most. -/
def Obligations.NothingHappensWhileRstIsHeld : Prop :=
  ∀ s : State, s.ports.rst = true →
    (∀ w, s.nextEvent = .code (.word w) → step s = .next s.advance) ∧
    (∀ b, s.nextEvent = .code (.status b) → step s = .next s.advance) ∧
    (∀ r, s.nextEvent = .answer r → step s = .next s.advance) ∧
    (s.nextEvent = .poll → step s = .next s.advance) ∧
    (s.nextEvent = .tick → step s = .next s.advance) ∧
    (∀ b, s.nextEvent = .dataReady b →
      step s = .next { s.advance with ports := { s.ports with dataReady := b } })

/-! ## The frame builders and the comparators -/

/-- 40_framer.md R90: the frame, and every position of `TXBUF` above index `n` keeps its old content. -/
def Obligations.BuildRawWritesTheFrame : Prop :=
  ∀ (n : Byte) (s : State), Mem.wf s.txbuf = true → n.toNat ≤ s.cfg.maxLen →
    ∃ m, buildRaw n s = .ok { s with txbuf := m } ∧ RawBuilt n s.pay s.txbuf m

/-- R91: destination first, then source; the length byte counts both and does not wrap. -/
def Obligations.BuildAddressedWritesTheFrame : Prop :=
  ∀ (self dest n : Byte) (s : State), s.cfg.wf = true → Mem.wf s.txbuf = true → n.toNat + 2 ≤ s.cfg.maxLen →
    ∃ m, buildAddressed self dest n s = .ok { s with txbuf := m } ∧ AddressedBuilt self dest n s.pay s.txbuf m

/-- R92: always defined, for every tag that 00_scope.md R6 admits; the destination is the peer, and `PAY` plays no
part. -/
def Obligations.BuildAckWritesTheFrame : Prop :=
  ∀ (self peer : Byte) (s : State), s.cfg.wf = true → Mem.wf s.txbuf = true →
    ∃ m, buildAck self peer s = .ok { s with txbuf := m } ∧ AckBuilt s.cfg self peer s.txbuf m

/-- 41_link.md R121, R122: the address filter as its five conditions, and the auto-reply selector, which looks at the
recorded destination only; first the broadcast test that both use (R120). -/
def Obligations.IsAckIsTheSignature : Prop :=
  ∀ (self peer : Byte) (s : State),
    (∀ a, isBroadcast s.cfg a = true ↔ a = s.cfg.broadcastAddr) ∧
    (isAck self peer s = true ↔
      (s.byteAt .rxbuf 0).toNat = 2 + s.cfg.ackTag.length ∧ s.byteAt .rxbuf 1 = self ∧
      s.byteAt .rxbuf 1 ≠ s.cfg.broadcastAddr ∧ s.byteAt .rxbuf 2 = peer ∧
      ∀ i (h : i < s.cfg.ackTag.length), s.byteAt .rxbuf (3 + i) = s.cfg.ackTag[i]) ∧
    (autoReply s = true ↔ s.byteAt .rxbuf 1 ≠ s.cfg.broadcastAddr)

/-- R121, 95_test_vectors.md S6: any single-byte mutation of the length, an address or a tag byte of an ACK makes it
no ACK; and with the broadcast address as the station's own (70_reset_and_hazards.md R225) nothing is one. -/
def Obligations.MutatedAckIsNotRecognised : Prop :=
  (∀ (self peer v : Byte) (i : Nat) (s : State), Mem.wf s.rxbuf = true → isAck self peer s = true →
    i ≤ 2 + s.cfg.ackTagLen → v ≠ s.byteAt .rxbuf i →
    isAck self peer { s with rxbuf := Mem.write s.rxbuf i v } = false) ∧
  (∀ (peer : Byte) (s : State), isAck s.cfg.broadcastAddr peer s = false)

/-! ## Acceptance, refusal, the end of a command -/

/-- 42_system.md R155: a command is accepted exactly when `rst` is not asserted and `BUSY` is 0; the word is sampled,
the results are cleared and the command begins; `PKT_AVAIL`, `WR_PAY`, `RD_RX`, an illegal and a refused command have
ended when the accepting step ends, every other command is then in progress with nothing but cleared results; a
command presented at any other step is ignored, and nothing of it is kept (in `S_ACK_POLL` the step takes the poll,
log 2). -/
def Obligations.AcceptanceSamplesTheCommand : Prop :=
  ∀ (s : State) (w : CmdWord), s.Inv → s.nextEvent = .code (.word w) →
    (s.canAccept = true ↔ s.ports.rst = false ∧ s.status.busy = false) ∧
    (s.canAccept = false → step s = .next (s.thenPoll s.advance)) ∧
    (s.canAccept = true → ∃ t,
      step s = .next t ∧ exec (decodeWord s.cfg.linkLayer w) s.advance = .next t ∧ t.cmdw = w ∧ t.err.att = .none ∧
      (t.status.busy = true ↔ transfers (decodeWord s.cfg.linkLayer w) s = true) ∧
      (t.status.busy = true →
        t.status.done = false ∧ t.status.ok = false ∧ t.status.rxcode = .ack ∧ t.err.code = .none) ∧
      (t.status.busy = false → t.status.done = true))

/-- R156, 60_exceptions.md R183, R191, R196 (a): the refusals, in the order of their tests, each with the whole state
it leaves: no request, no buffer, no packet or LinkExchange register. A link command without the link layer is the
illegal command (R71). -/
def Obligations.RefusedCommandsChangeNothing : Prop :=
  ∀ s : State, s.canAccept = true →
    (s.ports.initOk = false →
      (∀ n u, exec (.sendData n u) s = .next (s.refused (wordSendData n u) .notReady .ack)) ∧
      (∀ u, exec (.recvData u) s = .next (s.refused (wordRecvData u) .notReady .ack)) ∧
      (∀ a u, exec (.setAddr a u) s = .next (s.refused (wordSetAddr a u) .notReady .ack)) ∧
      (s.cfg.linkLayer = true →
        (∀ a b c n, exec (.sendPacket a b c n) s = .next (s.refused (wordSendPacket a b c n) .notReady .ack)) ∧
        (∀ a b u, exec (.sendAck a b u) s = .next (s.refused (wordSendAck a b u) .notReady .ack)) ∧
        (∀ a b u, exec (.recvHandle a b u) s = .next (s.refused (wordRecvHandle a b u) .notReady .badFrame)))) ∧
    (s.ports.initOk = true →
      (∀ n u, s.cfg.maxLen < n.toNat →
        exec (.sendData n u) s = .next (s.refused (wordSendData n u) .badOperand .ack)) ∧
      (s.cfg.linkLayer = true → ∀ a b c n, s.cfg.maxLen < n.toNat + 2 →
        exec (.sendPacket a b c n) s = .next (s.refused (wordSendPacket a b c n) .badOperand .ack))) ∧
    (∀ i v u, s.cfg.maxLen ≤ i.toNat →
      exec (.wrPay i v u) s = .next (s.refused (wordWrPay i v u) .badOperand .ack)) ∧
    (∀ i u, s.cfg.maxLen + 2 < i.toNat →
      exec (.rdRx i u) s = .next (s.refused (wordRdRx i u) .badOperand .ack)) ∧
    (s.cfg.linkLayer = false →
      (∀ a b c n, exec (.sendPacket a b c n) s = .next (s.refused (wordSendPacket a b c n) .illegalCmd .ack)) ∧
      (∀ a b u, exec (.sendAck a b u) s = .next (s.refused (wordSendAck a b u) .illegalCmd .ack)) ∧
      (∀ a b u, exec (.recvHandle a b u) s = .next (s.refused (wordRecvHandle a b u) .illegalCmd .ack)))

/-- R154: an unassigned `OP` ends at once with `IllegalCmd` and `RXCODE` = 0, whether or not `init_ok`, whatever its
operands, and changes nothing but `STATUS`, `ERR` and what acceptance samples. -/
def Obligations.IllegalCommandEndsAtOnce : Prop :=
  ∀ (w : CmdWord) (s : State), s.canAccept = true → opAssigned s.cfg.linkLayer (cwOp w) = false →
    exec (.illegal w) s = .next (s.refused w .illegalCmd .ack)

/-- R157, R197: the two ends of a command, each with everything it writes; and the opcode test of R197 is the test on
`CTX` that the rule names. -/
def Obligations.FinishAndRaiseEndTheCommand : Prop :=
  (∀ (ok : Bool) (rx : RxCode) (s : State), finish ok rx s = { s with
    status := { busy := false, done := true, ok := ok, rxcode := rx }, fsm := .idle, ctx := .none }) ∧
  (∀ (e : ErrCode) (s : State), raiseError e s = { s with
    status := { busy := false, done := true, ok := false,
                rxcode := if s.cfg.linkLayer = true ∧ cwOp s.cmdw = 0x05#8
                          then (if e = .busTimeout then .timeout else .badFrame) else .ack }
    err := { s.err with code := e }, fsm := .idle, ctx := .none }) ∧
  (∀ s : State, s.Inv → s.status.busy = true →
    ((s.cfg.linkLayer = true ∧ cwOp s.cmdw = 0x05#8) ↔ (s.ctx = .recvHandle ∨ s.ctx = .autoAck)))

/-! ## Commands that end in their accepting step -/

/-- 40_framer.md R100: with the index in range one byte of `PAY` changes, whether or not `init_ok`; out of range the
command is refused and no byte changes. (Acceptance empties the trace, a field of the model's own: log 22.) -/
def Obligations.WrPayStoresOneByte : Prop :=
  ∀ (idx val : Byte) (u : BitVec 16) (s : State), s.canAccept = true → Mem.wf s.pay = true →
    (idx.toNat < s.cfg.maxLen → ∃ m,
      exec (.wrPay idx val u) s = .next { s.completed (wordWrPay idx val u) true with pay := m } ∧
      ∀ i, Mem.read m i = if i = idx.toNat then val else Mem.read s.pay i) ∧
    (s.cfg.maxLen ≤ idx.toNat →
      exec (.wrPay idx val u) s = .next (s.refused (wordWrPay idx val u) .badOperand .ack))

/-- R101: with the index in range `RD_DATA` takes the byte of `RXBUF`, whether or not `init_ok`; out of range the
command is refused. (Acceptance empties the trace, a field of the model's own: log 22.) -/
def Obligations.RdRxReadsOneByte : Prop :=
  ∀ (idx : Byte) (u : BitVec 24) (s : State), s.canAccept = true →
    (idx.toNat ≤ s.cfg.maxLen + 2 →
      exec (.rdRx idx u) s =
        .next { s.completed (wordRdRx idx u) true with rdData := s.byteAt .rxbuf idx.toNat }) ∧
    (s.cfg.maxLen + 2 < idx.toNat →
      exec (.rdRx idx u) s = .next (s.refused (wordRdRx idx u) .badOperand .ack))

/-- 42_system.md R150, R151: `PKT_AVAIL` ends with the poll's result. In `LEVEL` mode that is the line's level and
nothing is consumed; in `EDGE` mode it is whether `RX_FLAG` is above 0, and a true result takes one count, so after
one arrival two in a row give true, then false. The one line that the trace gets is the model's record of it
(log 22). -/
def Obligations.PktAvailPolls : Prop :=
  ∀ (u : BitVec 32) (s : State), s.canAccept = true →
    (s.cfg.rxSignalMode = .level →
      exec (.pktAvail u) s = .next { s.completed (wordPktAvail u) s.ports.dataReady with
        trace := [.poll s.ports.dataReady] }) ∧
    (s.cfg.rxSignalMode = .edge → 0 < s.rxFlag →
      exec (.pktAvail u) s = .next { s.completed (wordPktAvail u) true with
        rxFlag := s.rxFlag - 1, trace := [.poll true] }) ∧
    (s.cfg.rxSignalMode = .edge → s.rxFlag = 0 →
      exec (.pktAvail u) s = .next { s.completed (wordPktAvail u) false with trace := [.poll false] }) ∧
    (s.cfg.rxSignalMode = .edge → s.rxFlag = 1 → ∃ t t', exec (.pktAvail u) s = .next t ∧
      exec (.pktAvail u) t = .next t' ∧ t.status.ok = true ∧ t'.status.ok = false)

/-- R152: at a rise of `data_ready`, in every state of the block and in both modes, `RX_FLAG` counts up and saturates,
and nothing of the sequencer moves; a fall, and a level that does not change, do nothing but set the level. (A rise
while `rst` is asserted is lost, R212. In `S_ACK_POLL` the poll follows the change in the same step, log 2, and so a rise
there is seen by it.) -/
def Obligations.DataReadyEdgeSaturates : Prop :=
  ∀ (s : State) (b : Bool), s.nextEvent = .dataReady b →
    ((b = true ∧ s.ports.dataReady = false ∧ s.ports.rst = false) →
      step s = .next (s.thenPoll { s.advance with
        ports := { s.ports with dataReady := true }
        rxFlag := min (s.rxFlag + 1) s.cfg.rxFlagDepth
        trace := s.trace ++ [.edge] })) ∧
    ((b = false ∨ s.ports.dataReady = true ∨ s.ports.rst = true) →
      step s = .next (s.thenPoll { s.advance with ports := { s.ports with dataReady := b } }))

/-! ## The accepting step of the commands that make a request -/

/-- 43_sequencer.md R166 row 2: `SEND_DATA` accepted and not refused. -/
def Obligations.SendDataStarts : Prop :=
  ∀ (n : Byte) (u : BitVec 24) (s : State), s.canAccept = true → s.ports.initOk = true → Mem.wf s.txbuf = true →
    n.toNat ≤ s.cfg.maxLen → ∃ m,
      exec (.sendData n u) s = .next { s.started (wordSendData n u) .sendData .txLoad with xN := n, txbuf := m } ∧
      RawBuilt n s.pay s.txbuf m

/-- Row 3: `SEND_PACKET` accepted and not refused. -/
def Obligations.SendPacketStarts : Prop :=
  ∀ (self dest retries n : Byte) (s : State), s.canAccept = true → s.ports.initOk = true →
    s.cfg.linkLayer = true → s.cfg.wf = true → Mem.wf s.txbuf = true → n.toNat + 2 ≤ s.cfg.maxLen → ∃ m,
      exec (.sendPacket self dest retries n) s =
        .next { s.started (wordSendPacket self dest retries n) .sendPacket .txLoad with
          xSelf := self, xPeer := dest, xMaxRetry := retries, xN := n, retryCnt := 0x00#8, txbuf := m } ∧
      AddressedBuilt self dest n s.pay s.txbuf m

/-- Row 4: `SEND_ACK` accepted and not refused. -/
def Obligations.SendAckStarts : Prop :=
  ∀ (self peer : Byte) (u : BitVec 16) (s : State), s.canAccept = true → s.ports.initOk = true →
    s.cfg.linkLayer = true → s.cfg.wf = true → Mem.wf s.txbuf = true → ∃ m,
      exec (.sendAck self peer u) s =
        .next { s.started (wordSendAck self peer u) .sendAck .txLoad with
          xSelf := self, xPeer := peer, txbuf := m } ∧
      AckBuilt s.cfg self peer s.txbuf m

/-- Rows 5 and 6: `RECV_DATA` and `RECV_HANDLE` accepted and not refused. -/
def Obligations.ReceiveCommandsStart : Prop :=
  ∀ s : State, s.canAccept = true → s.ports.initOk = true →
    (∀ u, exec (.recvData u) s =
      .next { s.started (wordRecvData u) .recvData .rdStatus with rLen := 0x00#8, rdres := .none }) ∧
    (s.cfg.linkLayer = true → ∀ self peer u, exec (.recvHandle self peer u) s =
      .next { s.started (wordRecvHandle self peer u) .recvHandle .rdStatus with
        xSelf := self, xPeer := peer, rLen := 0x00#8, rdres := .none })

/-- 42_system.md R153: `SET_ADDR` is refused before `init_ok`; otherwise the chip is written first, and the mirror
only when the chip answered `OK`; a bus timeout ends the command with `OWN_ADDR` unchanged. Every address is
accepted. -/
def Obligations.SetAddrWritesThrough : Prop :=
  ∀ (a : Byte) (u : BitVec 24) (s : State), s.canAccept = true →
    (s.ports.initOk = false → exec (.setAddr a u) s = .next (s.refused (wordSetAddr a u) .notReady .ack)) ∧
    (s.ports.initOk = true →
      exec (.setAddr a u) s = .next (s.started (wordSetAddr a u) .setAddr .addrWr) ∧
      (∀ tail, s.script = .code (.word (wordSetAddr a u)) :: .answer .done :: tail →
        reaches 2 s { s.completed (wordSetAddr a u) true with
          ownAddr := a, chip := { s.chip with addr := a }, script := tail, now := s.now + 2
          trace := [.request (.addrWrite a) .ok] }) ∧
      (∀ tail, s.script = .code (.word (wordSetAddr a u)) :: .answer .busTimeout :: tail → ∃ c,
        reaches 2 s { s.refused (wordSetAddr a u) .busTimeout .ack with
          chip := c, script := tail, now := s.now + 2
          trace := [.request (.addrWrite a) .busTimeout] }))

/-! ## Transmitting -/

/-- 40_framer.md R98, R93: `SEND_DATA` as a whole, when the radio agent answers: one burst of the frame, one `TX_GO`,
one `RX_GO`; `OK` on `TX_OK`, and `TxUnderflow` in both error fields on `TX_UNDERFLOW`. -/
def Obligations.SendDataSendsOneFrame : Prop :=
  ∀ (n : Byte) (u : BitVec 24) (s : State) (sent : Bool) (tail : List Event),
    s.Inv → s.canAccept = true → s.ports.initOk = true → n.toNat ≤ s.cfg.maxLen →
    s.script = .code (.word (wordSendData n u)) :: .answer .done :: .answer (sentReply sent) :: .answer .done :: tail →
    ∃ m c, RawBuilt n s.pay s.txbuf m ∧ c.mode = .receive ∧ c.rxFifo = s.chip.rxFifo ∧
      reaches 4 s { s with
        cmdw := wordSendData n u, xN := n, txbuf := m, txres := sent, fsm := .idle, ctx := .none
        status := { busy := false, done := true, ok := sent, rxcode := .ack }
        err := if sent then { code := .none, att := .none } else { code := .txUnderflow, att := .txUnderflow }
        chip := c, script := tail, now := s.now + 4
        trace := transmitLines (n :: Mem.readBytes s.pay 0 n.toNat) sent }

/-- 41_link.md R126: `SEND_ACK` as a whole, when the radio agent answers: the ACK frame to the peer, no retry and no
wait. -/
def Obligations.SendAckSendsOneFrame : Prop :=
  ∀ (self peer : Byte) (u : BitVec 16) (s : State) (sent : Bool) (tail : List Event),
    s.Inv → s.canAccept = true → s.ports.initOk = true → s.cfg.linkLayer = true →
    s.script =
      .code (.word (wordSendAck self peer u)) :: .answer .done :: .answer (sentReply sent) :: .answer .done :: tail →
    ∃ m c, AckBuilt s.cfg self peer s.txbuf m ∧ c.mode = .receive ∧ c.rxFifo = s.chip.rxFifo ∧
      reaches 4 s { s with
        cmdw := wordSendAck self peer u, xSelf := self, xPeer := peer, txbuf := m, txres := sent
        fsm := .idle, ctx := .none
        status := { busy := false, done := true, ok := sent, rxcode := .ack }
        err := if sent then { code := .none, att := .none } else { code := .txUnderflow, att := .txUnderflow }
        chip := c, script := tail, now := s.now + 4
        trace := transmitLines (lenByte (2 + s.cfg.ackTagLen) :: peer :: self :: s.cfg.ackTag) sent }

/-- R129 (a), 95_test_vectors.md S5: a broadcast whose `TX_GO` answers `TX_OK` succeeds with exactly one `TX_GO`, no
poll and no tick, whatever the retry budget. -/
def Obligations.BroadcastSendNeverWaits : Prop :=
  ∀ (self retries n : Byte) (s : State) (tail : List Event),
    s.Inv → s.canAccept = true → s.ports.initOk = true → s.cfg.linkLayer = true → n.toNat + 2 ≤ s.cfg.maxLen →
    s.script = .code (.word (wordSendPacket self s.cfg.broadcastAddr retries n)) ::
      .answer .done :: .answer .done :: .answer .done :: tail →
    ∃ m c, AddressedBuilt self s.cfg.broadcastAddr n s.pay s.txbuf m ∧ c.mode = .receive ∧
      c.rxFifo = s.chip.rxFifo ∧
      reaches 4 s { s with
        cmdw := wordSendPacket self s.cfg.broadcastAddr retries n
        xSelf := self, xPeer := s.cfg.broadcastAddr, xMaxRetry := retries, xN := n, retryCnt := 0x00#8
        txbuf := m, txres := true, fsm := .idle, ctx := .none
        status := { busy := false, done := true, ok := true, rxcode := .ack }
        err := { code := .none, att := .none }, chip := c, script := tail, now := s.now + 4
        trace := transmitLines
          (lenByte (n.toNat + 2) :: s.cfg.broadcastAddr :: self :: Mem.readBytes s.pay 0 n.toNat) true }

/-- R93 with 43_sequencer.md R166 rows 8 to 17: what the three requests of a transmit send, and where each command
goes on after them. An underflow fails an attempt for every destination, broadcast included, without an ACK wait
(60_exceptions.md R184), and leaves the result of an auto-reply Data (41_link.md R128). -/
def Obligations.TransmitEndsByItsContext : Prop :=
  ∀ (s : State) (sent : Bool) (tail : List Event),
    s.Inv → s.ports.rst = false → s.fsm = .txLoad →
    s.script = .answer .done :: .answer (sentReply sent) :: .answer .done :: tail →
    ∃ t, reaches 3 s t ∧
      t.trace = s.trace ++ transmitLines (Mem.readBytes s.txbuf 0 ((s.byteAt .txbuf 0).toNat + 1)) sent ∧
      t.txres = sent ∧ t.chip.mode = .receive ∧ t.chip.rxFifo = s.chip.rxFifo ∧ t.script = tail ∧
      t = { s with
        txbuf := t.txbuf, fsm := t.fsm, ctx := t.ctx, rdres := t.rdres, txres := t.txres, status := t.status
        err := t.err, retryCnt := t.retryCnt, waitCnt := t.waitCnt, chip := t.chip, script := t.script
        now := s.now + 3, trace := t.trace } ∧
      (s.ctx ≠ .sendPacket → t.txbuf = s.txbuf ∧ t.rdres = s.rdres ∧ t.retryCnt = s.retryCnt ∧
        t.waitCnt = s.waitCnt ∧ t.ctx = .none) ∧
      ((s.ctx = .sendData ∨ s.ctx = .sendAck) → t.fsm = .idle ∧
        t.status = { busy := false, done := true, ok := sent, rxcode := .ack } ∧
        t.err = (if sent then s.err else { code := .txUnderflow, att := .txUnderflow })) ∧
      (s.ctx = .autoAck → t.fsm = .idle ∧
        t.status = { busy := false, done := true, ok := true, rxcode := .data } ∧
        t.err = (if sent then s.err else { s.err with att := .txUnderflow })) ∧
      (s.ctx = .sendPacket → sent = true → s.xPeer = s.cfg.broadcastAddr → t.fsm = .idle ∧
        t.status = { busy := false, done := true, ok := true, rxcode := .ack } ∧ t.err = s.err ∧ t.ctx = .none ∧
        t.txbuf = s.txbuf ∧ t.rdres = s.rdres ∧ t.retryCnt = s.retryCnt ∧ t.waitCnt = s.waitCnt) ∧
      (s.ctx = .sendPacket → sent = true → s.xPeer ≠ s.cfg.broadcastAddr → 0 < s.cfg.ackTimeoutSteps →
        t.fsm = .ackPoll ∧ t.ctx = .sendPacket ∧ t.status = s.status ∧ t.err = s.err ∧ t.waitCnt = 0 ∧
        t.rdres = .none ∧ t.txbuf = s.txbuf ∧ t.retryCnt = s.retryCnt) ∧
      (s.ctx = .sendPacket → sent = true → s.xPeer ≠ s.cfg.broadcastAddr → s.cfg.ackTimeoutSteps = 0 →
        s.AttemptFailed .ackTimeout t) ∧
      (s.ctx = .sendPacket → sent = false → s.AttemptFailed .txUnderflow t)

/-! ## Reading a record -/

/-- 40_framer.md R102: a frame that a builder has put into `TXBUF`, followed by any two trailer bytes, is read back
byte for byte, for every length; no flag is set by a zero second trailer byte. The reading block `r` may be another
instance than the building one `s`, as long as the frame is not oversized there. Exactly the record leaves the
FIFO. -/
def Obligations.BuiltFrameIsReadBack : Prop :=
  ∀ (s s' r : State) (self dest n t0 t1 b : Byte) (rest : List Byte) (tail : List Event) (addressed : Bool),
    s.cfg.wf = true → Mem.wf s.txbuf = true →
    (if addressed then buildAddressed self dest n s else buildRaw n s) = .ok s' →
    r.Inv → r.ports.rst = false → r.fsm = .rdStatus → (s'.byteAt .txbuf 0).toNat ≤ r.cfg.maxLen →
    r.chip.rxFifo = Mem.readBytes s'.txbuf 0 ((s'.byteAt .txbuf 0).toNat + 1) ++ t0 :: t1 :: rest →
    statusOvf b = false → statusCnt b ≠ 0#7 →
    r.script = .code (.status b) ::
      (List.replicate (if s'.byteAt .txbuf 0 = 0x00#8 then 2 else 3) (.answer .done) ++ tail) →
    ∃ t, reaches (if s'.byteAt .txbuf 0 = 0x00#8 then 3 else 4) r t ∧ t.script = tail ∧ t.chip.rxFifo = rest ∧
      (t.rdres = .ok ∨ (r.ctx = .sendPacket ∧ t.rdres = .badAck)) ∧
      (addressed = false → Mem.read t.rxbuf 0 = n ∧
        ∀ i < n.toNat, Mem.read t.rxbuf (1 + i) = Mem.read s.pay i) ∧
      (addressed = true → (Mem.read t.rxbuf 0).toNat = n.toNat + 2 ∧ Mem.read t.rxbuf 1 = dest ∧
        Mem.read t.rxbuf 2 = self ∧ ∀ i < n.toNat, Mem.read t.rxbuf (3 + i) = Mem.read s.pay i) ∧
      (r.ctx = .recvData → t.status.ok = true ∧ t.rLen = s'.byteAt .txbuf 0 ∧ (t1 = 0x00#8 → t.crcOkOut = false))

/-- R99, 10_state.md R13: `RECV_DATA` reading a whole record, of any length from 0 to `MAX_LEN`: the result registers,
the positions of `RXBUF` it fills, the trace, and nothing else of the block. CRC-OK plays no part. -/
def Obligations.RecvDataDeliversTheRecord : Prop :=
  ∀ (s : State) (payload rest : List Byte) (t0 t1 b : Byte) (tail : List Event),
    s.Inv → s.ports.rst = false → s.fsm = .rdStatus → s.ctx = .recvData →
    payload.length ≤ s.cfg.maxLen → s.chip.rxFifo = fifoWith payload t0 t1 rest →
    statusOvf b = false → statusCnt b ≠ 0#7 →
    s.script = .code (.status b) :: (List.replicate (readAnswers payload - 1) (.answer .done) ++ tail) →
    ∃ m, RecordRead payload t0 t1 s.rxbuf m ∧
      reaches (readAnswers payload) s { s with
        rxbuf := m, rLen := lenByte payload.length, rRssiRaw := t0, rLqiRaw := t1, rdres := .ok
        status := { busy := false, done := true, ok := true, rxcode := .ack }, fsm := .idle, ctx := .none
        chip := { s.chip with rxFifo := rest }, script := tail, now := s.now + readAnswers payload
        trace := s.trace ++ readLines b payload t0 t1 }

/-- R94, R99, 41_link.md R127, 60_exceptions.md R185, R186, R190: `RECV_DATA` and `RECV_HANDLE` on an empty, an
overflowed and an oversized RX FIFO. Empty: nothing popped, no further request. Overflow: nothing popped, flush,
`RX_GO`, `RXBUF` unchanged. Oversized: one byte popped, only `RXBUF[0]` written, flush, `RX_GO`. -/
def Obligations.ReceiveOfBadFifoFails : Prop :=
  ∀ (s : State) (b : Byte) (tail : List Event),
    s.Inv → s.ports.rst = false → s.fsm = .rdStatus → (s.ctx = .recvData ∨ s.ctx = .recvHandle) →
    let ended := fun (e : ErrCode) (res : RdRes) (t : State) => { t with
      rdres := res, fsm := .idle, ctx := .none, err := { s.err with code := e }, script := tail
      status := { busy := false, done := true, ok := false, rxcode := s.ctx.failCode } }
    let flushed := { s.chip with rxFifo := [], rxOvf := false, mode := .receive }
    (statusOvf b = false → statusCnt b = 0#7 → s.script = .code (.status b) :: tail →
      reaches 1 s (ended .empty .empty { s with
        now := s.now + 1, trace := s.trace ++ [.request .rxStatus (.byte b)] })) ∧
    (statusOvf b = true → s.script = .code (.status b) :: .answer .done :: .answer .done :: tail →
      reaches 3 s (ended .rxOverflow .overflow { s with
        chip := flushed, now := s.now + 3
        trace := s.trace ++ [.request .rxStatus (.byte b), .request .rxFlush .ok, .request .rxGo .ok] })) ∧
    (∀ len more, statusOvf b = false → statusCnt b ≠ 0#7 → s.chip.rxFifo = len :: more → s.cfg.maxLen < len.toNat →
      s.script = .code (.status b) :: .answer .done :: .answer .done :: .answer .done :: tail → ∃ m,
      (∀ i, Mem.read m i = if i = 0 then len else Mem.read s.rxbuf i) ∧
      reaches 4 s (ended .oversized .oversize { s with
        rxbuf := m, chip := flushed, now := s.now + 4
        trace := s.trace ++ [.request .rxStatus (.byte b), .request (.rxfifoPop 1) (.bytes [len]),
          .request .rxFlush .ok, .request .rxGo .ok] }))

/-- 41_link.md R127, 60_exceptions.md R190, R193: `RECV_HANDLE` on a record without two addresses: `Empty` for length
0, `Short` for length 1, `RXCODE` = BadFrame, no packet register written, no reply. -/
def Obligations.RecvHandleRejectsShortFrames : Prop :=
  ∀ (s : State) (payload rest : List Byte) (t0 t1 b : Byte) (tail : List Event),
    s.Inv → s.ports.rst = false → s.fsm = .rdStatus → s.ctx = .recvHandle →
    payload.length ≤ 1 → s.chip.rxFifo = fifoWith payload t0 t1 rest →
    statusOvf b = false → statusCnt b ≠ 0#7 →
    s.script = .code (.status b) :: (List.replicate (readAnswers payload - 1) (.answer .done) ++ tail) →
    ∃ m, RecordRead payload t0 t1 s.rxbuf m ∧
      reaches (readAnswers payload) s { s with
        rxbuf := m, rdres := .ok, fsm := .idle, ctx := .none
        status := { busy := false, done := true, ok := false, rxcode := .badFrame }
        err := { s.err with code := if payload = [] then .empty else .short }
        chip := { s.chip with rxFifo := rest }, script := tail, now := s.now + readAnswers payload
        trace := s.trace ++ readLines b payload t0 t1 }

/-- R127: `RECV_HANDLE` on the expected ACK reports Ack, writes `R_LEN`, `R_DEST` and `R_SRC` but not the trailer
registers, and does not reply. -/
def Obligations.RecvHandleReportsAck : Prop :=
  ∀ (s : State) (rest : List Byte) (t0 t1 b : Byte) (tail : List Event),
    s.Inv → s.ports.rst = false → s.fsm = .rdStatus → s.ctx = .recvHandle → s.xSelf ≠ s.cfg.broadcastAddr →
    s.chip.rxFifo = fifoWith (s.xSelf :: s.xPeer :: s.cfg.ackTag) t0 t1 rest →
    statusOvf b = false → statusCnt b ≠ 0#7 →
    s.script = .code (.status b) :: .answer .done :: .answer .done :: .answer .done :: tail →
    ∃ m, RecordRead (s.xSelf :: s.xPeer :: s.cfg.ackTag) t0 t1 s.rxbuf m ∧
      reaches 4 s { s with
        rxbuf := m, rLen := lenByte (2 + s.cfg.ackTagLen), rDest := s.xSelf, rSrc := s.xPeer, rdres := .ok
        fsm := .idle, ctx := .none, status := { busy := false, done := true, ok := true, rxcode := .ack }
        chip := { s.chip with rxFifo := rest }, script := tail, now := s.now + 4
        trace := s.trace ++ readLines b (s.xSelf :: s.xPeer :: s.cfg.ackTag) t0 t1 }

/-- R127, R128, R122, R131: `RECV_HANDLE` on every other addressed frame reports Data whatever its destination, fills
the packet registers, and replies unless the destination is the broadcast address: the reply goes to the recorded
source in the name of the recorded destination, and neither its result nor CRC-OK changes the report. -/
def Obligations.RecvHandleDeliversData : Prop :=
  ∀ (s : State) (dest src : Byte) (data rest : List Byte) (t0 t1 b : Byte) (sent : Bool) (tail : List Event),
    s.Inv → s.ports.rst = false → s.fsm = .rdStatus → s.ctx = .recvHandle →
    ¬ (dest = s.xSelf ∧ src = s.xPeer ∧ data = s.cfg.ackTag ∧ dest ≠ s.cfg.broadcastAddr) →
    data.length + 2 ≤ s.cfg.maxLen → s.chip.rxFifo = fifoWith (dest :: src :: data) t0 t1 rest →
    statusOvf b = false → statusCnt b ≠ 0#7 →
    let ended := fun (t : State) => { t with
      rLen := lenByte (data.length + 2), rDest := dest, rSrc := src, rRssiRaw := t0, rLqiRaw := t1, rdres := .ok
      fsm := .idle, ctx := .none, status := { busy := false, done := true, ok := true, rxcode := .data }
      script := tail }
    (dest = s.cfg.broadcastAddr →
      s.script = .code (.status b) :: .answer .done :: .answer .done :: .answer .done :: tail →
      ∃ m, RecordRead (dest :: src :: data) t0 t1 s.rxbuf m ∧
        reaches 4 s (ended { s with
          rxbuf := m, chip := { s.chip with rxFifo := rest }, now := s.now + 4
          trace := s.trace ++ readLines b (dest :: src :: data) t0 t1 })) ∧
    (dest ≠ s.cfg.broadcastAddr →
      s.script = .code (.status b) :: .answer .done :: .answer .done :: .answer .done ::
        .answer .done :: .answer (sentReply sent) :: .answer .done :: tail →
      ∃ m x c, RecordRead (dest :: src :: data) t0 t1 s.rxbuf m ∧ AckBuilt s.cfg dest src s.txbuf x ∧
        c.rxFifo = rest ∧ c.mode = .receive ∧
        reaches 7 s (ended { s with
          rxbuf := m, txbuf := x, txres := sent, chip := c, now := s.now + 7
          err := if sent then s.err else { s.err with att := .txUnderflow }
          trace := s.trace ++ readLines b (dest :: src :: data) t0 t1 ++
            transmitLines (lenByte (2 + s.cfg.ackTagLen) :: src :: dest :: s.cfg.ackTag) sent }))

/-! ## The ACK wait and the retry -/

/-- R124, R121: the awaited ACK ends `SEND_PACKET` with `OK` = 1 and writes no packet register. -/
def Obligations.AwaitedAckEndsTheCommand : Prop :=
  ∀ (s : State) (rest : List Byte) (t0 t1 b : Byte) (tail : List Event),
    s.Inv → s.ports.rst = false → s.fsm = .rdStatus → s.ctx = .sendPacket → s.xSelf ≠ s.cfg.broadcastAddr →
    s.chip.rxFifo = fifoWith (s.xSelf :: s.xPeer :: s.cfg.ackTag) t0 t1 rest →
    statusOvf b = false → statusCnt b ≠ 0#7 →
    s.script = .code (.status b) :: .answer .done :: .answer .done :: .answer .done :: tail →
    ∃ m, RecordRead (s.xSelf :: s.xPeer :: s.cfg.ackTag) t0 t1 s.rxbuf m ∧
      reaches 4 s { s with
        rxbuf := m, rdres := .ok, fsm := .idle, ctx := .none
        status := { busy := false, done := true, ok := true, rxcode := .ack }
        chip := { s.chip with rxFifo := rest }, script := tail, now := s.now + 4
        trace := s.trace ++ readLines b (s.xSelf :: s.xPeer :: s.cfg.ackTag) t0 t1 }

/-- R124, R130, 60_exceptions.md R187: the first record read in the ACK wait ends the wait whatever it is. Any record
but the awaited ACK is dropped, `RX_GO` is requested once more, and the attempt fails with `BadAck`; an empty, an
overflowed and an oversized FIFO fail it with their own causes. Nothing is transmitted in answer, no packet
register is written, and `RX_FLAG` keeps its count. -/
def Obligations.FirstRecordEndsTheWait : Prop :=
  ∀ (s : State) (rest : List Byte) (b : Byte) (tail : List Event),
    s.Inv → s.ports.rst = false → s.fsm = .rdStatus → s.ctx = .sendPacket →
    let flushed := { s.chip with rxFifo := [], rxOvf := false, mode := .receive }
    (∀ payload t0 t1, payload.length ≤ s.cfg.maxLen → s.chip.rxFifo = fifoWith payload t0 t1 rest →
      (payload ≠ s.xSelf :: s.xPeer :: s.cfg.ackTag ∨ s.xSelf = s.cfg.broadcastAddr) →
      statusOvf b = false → statusCnt b ≠ 0#7 →
      s.script = .code (.status b) :: (List.replicate (readAnswers payload) (.answer .done) ++ tail) →
      ∃ t, reaches (readAnswers payload + 1) s t ∧ s.AttemptFailed .badAck t ∧ t.rdres = .badAck ∧
        t.chip = { s.chip with rxFifo := rest, mode := .receive } ∧ RecordRead payload t0 t1 s.rxbuf t.rxbuf ∧
        t.txres = s.txres ∧ t.script = tail ∧
        t.trace = s.trace ++ readLines b payload t0 t1 ++ [.request .rxGo .ok]) ∧
    (statusOvf b = false → statusCnt b = 0#7 → s.script = .code (.status b) :: tail →
      ∃ t, reaches 1 s t ∧ s.AttemptFailed .empty t ∧ t.rdres = .empty ∧ t.rxbuf = s.rxbuf ∧ t.chip = s.chip ∧
        t.txres = s.txres ∧ t.script = tail ∧ t.trace = s.trace ++ [.request .rxStatus (.byte b)]) ∧
    (statusOvf b = true → s.script = .code (.status b) :: .answer .done :: .answer .done :: tail →
      ∃ t, reaches 3 s t ∧ s.AttemptFailed .rxOverflow t ∧ t.rdres = .overflow ∧ t.rxbuf = s.rxbuf ∧
        t.chip = flushed ∧ t.txres = s.txres ∧ t.script = tail ∧
        t.trace = s.trace ++ [.request .rxStatus (.byte b), .request .rxFlush .ok, .request .rxGo .ok]) ∧
    (∀ len more, statusOvf b = false → statusCnt b ≠ 0#7 → s.chip.rxFifo = len :: more → s.cfg.maxLen < len.toNat →
      s.script = .code (.status b) :: .answer .done :: .answer .done :: .answer .done :: tail →
      ∃ t, reaches 4 s t ∧ s.AttemptFailed .oversized t ∧ t.rdres = .oversize ∧ t.chip = flushed ∧
        t.txres = s.txres ∧ t.script = tail ∧
        (∀ i, Mem.read t.rxbuf i = if i = 0 then len else Mem.read s.rxbuf i) ∧
        t.trace = s.trace ++ [.request .rxStatus (.byte b), .request (.rxfifoPop 1) (.bytes [len]),
          .request .rxFlush .ok, .request .rxGo .ok])

/-- R124, 42_system.md R151, 43_sequencer.md R166 rows 18 and 19, R170, 60_exceptions.md R189: the ACK wait. A poll that
finds the line true (`LEVEL`) or a count in `RX_FLAG` (`EDGE`, and takes it) goes on to read the record, and any other
goes on to wait for a tick. The poll waits on nothing: whatever event a step brings but `rst`, it takes the poll, on
what the event left, and the event moves nothing else of the block (the form of that step: log 2). A wait in which no
poll finds anything makes exactly `ACK_TIMEOUT_STEPS` polls, with one tick after each and none before the first, and
then fails the attempt with `AckTimeout`. -/
def Obligations.AckWaitPollsAndTimesOut : Prop :=
  ∀ s : State, s.Inv → s.ports.rst = false → s.fsm = .ackPoll →
    let found := match s.cfg.rxSignalMode with
      | .level => s.ports.dataReady
      | .edge => decide (0 < s.rxFlag)
    (s.nextEvent = .poll → step s = .next { s.advance with
      fsm := if found then .rdStatus else .ackTick
      rxFlag := if found = true ∧ s.cfg.rxSignalMode = .edge then s.rxFlag - 1 else s.rxFlag
      trace := s.trace ++ [.poll found] }) ∧
    (s.nextEvent = .dataReady true → s.ports.dataReady = false → step s = .next { s.advance with
      ports := { s.ports with dataReady := true }
      fsm := .rdStatus
      rxFlag := if s.cfg.rxSignalMode = .edge then min (s.rxFlag + 1) s.cfg.rxFlagDepth - 1
                else min (s.rxFlag + 1) s.cfg.rxFlagDepth
      trace := s.trace ++ [.edge, .poll true] }) ∧
    (s.nextEvent ≠ .rst true → (∀ b, s.nextEvent ≠ .dataReady b) → ∃ t, step s = .next t ∧
      s.SameBlock { t with fsm := s.fsm } ∧ t.fsm = (if found then .rdStatus else .ackTick) ∧
      t.rxFlag = (if found = true ∧ s.cfg.rxSignalMode = .edge then s.rxFlag - 1 else s.rxFlag) ∧
      t.trace = s.trace ++ [.poll found]) ∧
    (∀ tail, s.waitCnt = 0 → found = false →
      s.script = (List.replicate s.cfg.ackTimeoutSteps [Event.poll, Event.tick]).flatten ++ tail →
      ∃ t, reaches (2 * s.cfg.ackTimeoutSteps) s t ∧ s.AttemptFailed .ackTimeout t ∧ t.script = tail ∧
        t.chip = s.chip ∧ t.rxbuf = s.rxbuf ∧ t.rdres = s.rdres ∧ t.txres = s.txres ∧
        (s.xMaxRetry.toNat ≤ s.retryCnt.toNat + 1 → t.waitCnt = s.cfg.ackTimeoutSteps) ∧
        t.trace = s.trace ++
          (List.replicate s.cfg.ackTimeoutSteps [Interaction.poll false, Interaction.tick]).flatten)

/-- R125: `RetryOrFail()`, its three ways on, and the backoff: exactly `BACKOFF_TICKS` ticks, and then the frame is
built anew and transmitted again. -/
def Obligations.RetryDecision : Prop :=
  ∀ s : State, s.Inv → s.ctx = .sendPacket →
    (s.retryCnt.toNat + 1 < s.xMaxRetry.toNat → 0 < s.cfg.backoffTicks →
      retry s = .ok { s with retryCnt := s.retryCnt + 1, waitCnt := 0, fsm := .backoff }) ∧
    (s.retryCnt.toNat + 1 < s.xMaxRetry.toNat → s.cfg.backoffTicks = 0 → ∃ m,
      retry s = .ok { s with retryCnt := s.retryCnt + 1, waitCnt := 0, txbuf := m, fsm := .txLoad } ∧
      AddressedBuilt s.xSelf s.xPeer s.xN s.pay s.txbuf m) ∧
    (s.xMaxRetry.toNat ≤ s.retryCnt.toNat + 1 →
      retry s = .ok { s with
        retryCnt := s.retryCnt + 1, fsm := .idle, ctx := .none, err := { s.err with code := .retries }
        status := { busy := false, done := true, ok := false, rxcode := .ack } }) ∧
    (∀ tail, s.ports.rst = false → s.fsm = .backoff → s.waitCnt = 0 →
      s.script = List.replicate s.cfg.backoffTicks .tick ++ tail → ∃ m,
      reaches s.cfg.backoffTicks s { s with
        waitCnt := s.cfg.backoffTicks, txbuf := m, fsm := .txLoad, script := tail
        now := s.now + s.cfg.backoffTicks
        trace := s.trace ++ List.replicate s.cfg.backoffTicks .tick } ∧
      AddressedBuilt s.xSelf s.xPeer s.xN s.pay s.txbuf m)

/-! ## The radio agent's side -/

/-- 60_exceptions.md R181: at any request, the answer `BUS_TIMEOUT` ends the command at once, makes no further
request, is no attempt and is not retried; nothing else of the block changes. The chip's state is then open
(93_implementation_defined.md U6), so nothing is said of it. -/
def Obligations.BusTimeoutEndsTheCommand : Prop :=
  ∀ s : State, s.Inv → s.ports.rst = false → s.fsm.requests = true → s.nextEvent = .answer .busTimeout →
    ∃ c q, currentRequest s = .ok (some q) ∧ step s = .next { s.advance with
      chip := c
      trace := s.trace ++ [.request q .busTimeout]
      status := { busy := false, done := true, ok := false,
                  rxcode := if s.ctx = .recvHandle ∨ s.ctx = .autoAck then .timeout else .ack }
      err := { s.err with code := .busTimeout }
      fsm := .idle
      ctx := .none }

/-- 30_encoding.md R61 to R64: a frame that the radio receives joins the RX FIFO behind what it holds, followed by two
trailer bytes that are the radio's own, and a record joins as it is; nothing else changes, whatever the block is
doing. That a frame or record as an instruction is its reception is the model's choice (log 7). -/
def Obligations.ReceivedFramesJoinTheFifo : Prop :=
  ∀ s : State,
    let after := fun (bs : List Byte) => ({ s with chip := { s.chip with rxFifo := s.chip.rxFifo ++ bs } } : State)
    (∀ data, ∃ t0 t1, exec (.frameRaw data) s = .next (after (lenByte data.length :: (data ++ [t0, t1])))) ∧
    (∀ dest src data, ∃ t0 t1, exec (.frameAddressed dest src data) s =
      .next (after (lenByte (data.length + 2) :: dest :: src :: (data ++ [t0, t1])))) ∧
    (∀ dest src, ∃ t0 t1, exec (.frameAck dest src) s =
      .next (after (lenByte (s.cfg.ackTag.length + 2) :: dest :: src :: (s.cfg.ackTag ++ [t0, t1])))) ∧
    (∀ payload rssi lqi, exec (.record payload rssi lqi) s =
      .next (after (lenByte payload.length :: (payload ++ [rssi, lqi]))))

/-- 43_sequencer.md R166 rows 22 to 24: the `RX_STATUS` byte as the answer the block waits for: overflow first,
whatever the count, then the empty test; no byte is popped. With no `RX_STATUS` outstanding there is nothing to answer
and nothing happens (the model's choice, log 9). -/
def Obligations.StatusByteAnswersRxStatus : Prop :=
  ∀ (s : State) (ovf : Bool) (cnt : BitVec 7), s.Inv →
    let line := s.trace ++ [.request .rxStatus (.byte (statusByteOf ovf cnt))]
    (s.ports.rst = false → s.fsm = .rdStatus →
      (ovf = true → exec (.rxStatusByte ovf cnt) s =
        .next { s with trace := line, rdres := .overflow, fsm := .rdFlush }) ∧
      (ovf = false → cnt ≠ 0#7 → exec (.rxStatusByte ovf cnt) s = .next { s with trace := line, fsm := .rdLen }) ∧
      (ovf = false → cnt = 0#7 → (s.ctx = .recvData ∨ s.ctx = .recvHandle) → exec (.rxStatusByte ovf cnt) s =
        .next { s with
          trace := line, rdres := .empty, fsm := .idle, ctx := .none, err := { s.err with code := .empty }
          status := { busy := false, done := true, ok := false, rxcode := s.ctx.failCode } }) ∧
      (ovf = false → cnt = 0#7 → s.ctx = .sendPacket → ∃ t, exec (.rxStatusByte ovf cnt) s = .next t ∧
        s.AttemptFailed .empty t ∧ t.rdres = .empty ∧ t.rxbuf = s.rxbuf ∧ t.chip = s.chip ∧ t.txres = s.txres ∧
        t.script = s.script ∧ t.now = s.now ∧ t.trace = line)) ∧
    ((s.ports.rst = true ∨ s.fsm ≠ .rdStatus) → exec (.rxStatusByte ovf cnt) s = .next s)

/-- 20_memory.md R44, R53, R54, 10_state.md R27: the radio agent's side of the receive requests. `RX_STATUS` is not
destructive and counts the FIFO's bytes; a pop takes the oldest bytes, and one that asks for more than there is has
still `k` bytes, the content first, the rest open, and leaves the FIFO empty; a flush empties the FIFO and clears the
overflow; every request can answer `BUS_TIMEOUT`, and only `TX_GO` can answer `TX_UNDERFLOW`. -/
def Obligations.RadioAnswersFromItsFifo : Prop :=
  ∀ (now : Nat) (c : Chip),
    (c.rxFifo.length ≤ 127 → ∃ b, c.respond now .rxStatus .done = some (.byte b, c) ∧
      statusOvf b = c.rxOvf ∧ (statusCnt b).toNat = c.rxFifo.length) ∧
    (∀ k, ∃ bs, c.respond now (.rxfifoPop k) .done = some (.bytes bs, { c with rxFifo := c.rxFifo.drop k }) ∧
      bs.length = k ∧ ∀ i (h : i < c.rxFifo.length), i < k → bs[i]? = some c.rxFifo[i]) ∧
    (∃ m, c.respond now .rxFlush .done = some (.ok, { c with rxFifo := [], rxOvf := false, mode := m })) ∧
    (∀ q, ∃ c', c.respond now q .busTimeout = some (.busTimeout, c')) ∧
    (∀ q, (∃ r, c.respond now q .txUnderflow = some r) ↔ q = .txGo)

/-- R52, R54, 93_implementation_defined.md U14: what two of the named premises exclude. Under `RX_RECORD_COMPLETE`, from a
state in which no record is half read or the rest of it is whole in the RX FIFO, no pop of any read asks for more bytes
than there are, so none of its bytes is open. From a state whose RX FIFO consists of whole records for the chip's present
address or for all, a step that delivers under `CHIP_FILTERS` leaves such a FIFO, and the record at its head is such a
record with such records behind it (log 30). Nothing is said of a delivery while a record is half read, nor of records
that waited when the chip's address changed. The first clause rests on two choices of the model: bytes leave the RX FIFO
by nothing but a pop, a flush or a bus timeout (log 10), and the chip's own reset keeps them (log 23, PRESUMED); of a
radio that loses bytes in the middle of a read it would be false. -/
def Obligations.PremisesKeepReadsWithinFrames : Prop :=
  (∀ (n k : Nat) (s t : State), s.Inv → s.RecordAhead → RxRecordComplete n s → k ≤ n → reaches k s t →
    t.RecordAhead ∧ ∀ j, currentRequest t = .ok (some (.rxfifoPop j)) →
      j ≤ t.chip.rxFifo.length ∧ ∀ now, t.chip.respond now (.rxfifoPop j) .done =
        some (.bytes (t.chip.rxFifo.take j), { t.chip with rxFifo := t.chip.rxFifo.drop j })) ∧
  (∀ s : State, s.Inv → framesFor s.cfg s.chip.addr s.chip.rxFifo = true →
    (∀ t, ChipFilters 1 s → s.delivers = true → step s = .next t →
      framesFor t.cfg t.chip.addr t.chip.rxFifo = true) ∧
    (∀ payload t0 t1 rest, payload.length ≤ 255 → s.chip.rxFifo = fifoWith payload t0 t1 rest →
      ∃ dest more, payload = dest :: more ∧ (dest = s.chip.addr ∨ dest = s.cfg.broadcastAddr) ∧
        framesFor s.cfg s.chip.addr rest = true))

/-! ## The whole machine -/

/-- Log 2, log 3: when the bits that arrive decode to an instruction, the step is that instruction run on the state
past its event, and in `S_ACK_POLL` the poll that waits on nothing; a row's bits put where the step takes its next event
are run by the very next step. -/
def Obligations.StepRunsTheDecodedInstruction : Prop :=
  (∀ (s : State) (c : Code) (i : Instr), s.nextEvent = .code c → decode s.cfg c = .ok i →
    step s = s.settle (exec i { s with script := s.script.tail, now := s.now + 1 }) ∧
    (s.fsm ≠ .ackPoll → step s = exec i { s with script := s.script.tail, now := s.now + 1 })) ∧
  (∀ (s : State) (nbits w : Nat) (i : Instr), decode s.cfg (tableCode nbits w) = .ok i →
    step (s.withFetchWord nbits w) = s.settle (exec i { s with now := s.now + 1 }) ∧
    (s.fsm ≠ .ackPoll → step (s.withFetchWord nbits w) = exec i { s with now := s.now + 1 }))

/-- The reset state meets the invariant of the machine. -/
def Obligations.ResetMeetsTheInvariant : Prop := State.reset.Inv

/-- From every state that meets it, every step keeps the invariant (20_memory.md R42, 10_state.md R17, 40_framer.md
R103): the buffers stay canonical and inside their spaces, `FSM`, `CTX` and `BUSY` agree, and every length and counter
stays in range. -/
def Obligations.StepKeepsTheInvariant : Prop :=
  ∀ s t : State, s.Inv → step s = .next t → t.Inv

/-- 60_exceptions.md R180: from a state that meets the invariant no instruction, well-formed or not, and no step ends
in a fault or a refusal. -/
def Obligations.NothingStopsTheMachine : Prop :=
  ∀ s : State, s.Inv → (∀ i : Instr, ∃ t, exec i s = .next t) ∧ ∃ t, step s = .next t

/-- 10_state.md R11, 20_memory.md R50: outside reset, `PAY` changes only in the step that accepts a `WR_PAY`, so it
cannot change during a command. -/
def Obligations.PayIsWrittenByWrPayOnly : Prop :=
  ∀ s t : State, s.Inv → step s = .next t → t.pay ≠ s.pay →
    s.nextEvent = .rst true ∨
    (s.status.busy = false ∧ ∃ idx val u, s.nextEvent = .code (.word (wordWrPay idx val u)))

/-- R14, R16, R21: outside reset, `RD_DATA` changes only in an accepted `RD_RX`, `OWN_ADDR` only when the chip has
answered `OK` to `SET_ADDR`'s write of that same address, `R_DEST` and `R_SRC` only in a `RECV_HANDLE`, and the other
packet registers only in a `RECV_DATA` or `RECV_HANDLE`. -/
def Obligations.HostRegistersHaveTheirWriters : Prop :=
  ∀ s t : State, s.Inv → step s = .next t → s.nextEvent ≠ .rst true →
    (t.rdData ≠ s.rdData → s.status.busy = false ∧ ∃ idx u, s.nextEvent = .code (.word (wordRdRx idx u))) ∧
    (t.ownAddr ≠ s.ownAddr → s.ctx = .setAddr ∧ s.nextEvent = .answer .done ∧ t.ownAddr = cwA s.cmdw ∧
      t.chip.addr = t.ownAddr ∧ t.status.ok = true) ∧
    ((t.rDest ≠ s.rDest ∨ t.rSrc ≠ s.rSrc) → s.ctx = .recvHandle) ∧
    ((t.rRssiRaw ≠ s.rRssiRaw ∨ t.rLqiRaw ≠ s.rLqiRaw) → s.ctx = .recvData ∨ s.ctx = .recvHandle) ∧
    (t.rLen ≠ s.rLen → s.ctx = .recvData ∨ s.ctx = .recvHandle ∨ t.ctx = .recvData ∨ t.ctx = .recvHandle)

/-- 00_scope.md R6, 10_state.md R28: no step changes a parameter. -/
def Obligations.ParametersNeverChange : Prop :=
  ∀ s t : State, step s = .next t → t.cfg = s.cfg

/-- 43_sequencer.md R169, R170: while a command is in progress, nothing but the one thing its state waits for, and
`rst`, moves the block: frames arrive, edges are counted, commands are ignored, ticks pass unobserved. (In `S_ACK_POLL`
every event but `rst` counts as awaited: log 2.) -/
def Obligations.UnawaitedEventsLeaveTheBlock : Prop :=
  ∀ s t : State, s.Inv → s.status.busy = true → s.awaits s.nextEvent = false → s.nextEvent ≠ .rst true →
    step s = .next t → s.SameBlock t ∧ (t.rxFlag = s.rxFlag ∨ s.nextEvent = .dataReady true)

/-- R170: every awaited event ends the command or leaves it strictly less to do. `State.remaining` counts the
interactions of the attempt in progress and of at most `max(C, 1)` attempts, each of at most 3 + 2T + 6 interactions,
with their backoffs. `S_ACK_POLL` waits on nothing, and that any event but `rst` shortens the command there is the model's
form of a step (log 2). -/
def Obligations.AwaitedEventsShortenTheCommand : Prop :=
  ∀ s t : State, s.Inv → s.status.busy = true → s.awaits s.nextEvent = true → step s = .next t →
    t.status.busy = false ∨ t.remaining < s.remaining

/-- R170, 20_memory.md R52: under `BUS_RESPONDS` and `TICKS_ARRIVE` every command ends after finitely many steps,
whatever else happens between them. That the poll of the ACK wait needs no premise beside the two is the model's form of
a step, which takes it with any event (log 2). -/
def Obligations.EveryCommandEnds : Prop :=
  ∀ s : State, s.Inv → BusResponds s → TicksArrive s → ∃ k t, reaches k s t ∧ t.status.busy = false

/-- 41_link.md R129 (b), (c): in every `SEND_PACKET` the number of `TX_GO` requests is the number of failed attempts,
and one more once the attempt in progress has transmitted; so a command that ends `RetriesExhausted` has issued
`max(C, 1)` of them, and one that succeeds `RETRY_CNT` + 1. -/
def Obligations.TransmitsAreCounted : Prop :=
  ∀ s t : State, s.Inv → s.TransmitsCounted → step s = .next t →
    t.TransmitsCounted ∧
    (s.ctx = .sendPacket → s.nextEvent ≠ .rst true → t.status.busy = false →
      (t.err.code = .retries → txGoCount t.trace = max s.xMaxRetry.toNat 1 ∧ t.retryCnt.toNat = txGoCount t.trace) ∧
      (t.status.ok = true → txGoCount t.trace = t.retryCnt.toNat + 1))

/-- 10_state.md R21: no rule of the block reads `OWN_ADDR`. Two states that differ in it alone stay so, whatever the
event, but for the chip's own reset, which replays it (R30, 70_reset_and_hazards.md R211 b): that gives the chip's
address register `OWN_ADDR` and touches nothing of the block (what it keeps of the chip is log 23). -/
def Obligations.OwnAddrIsReadByNoRule : Prop :=
  (∀ (s : State) (a : Byte), s.Inv → s.nextEvent ≠ .chipReset →
    ∃ t t', step s = .next t ∧ step { s with ownAddr := a } = .next t' ∧
      { t with ownAddr := 0x00#8 } = { t' with ownAddr := 0x00#8 }) ∧
  (∀ s : State, s.nextEvent = .chipReset → ∃ c, c.addr = s.ownAddr ∧
    step s = .next (s.thenPoll { s.advance with chip := c }))
end

