-- ==== Sys2Proof/Laws/Encoding.lean ====
section
/-! SUPPORT. The fields of the encoder's words and bytes, one lemma per field (30_encoding.md R66, R70, R71). -/

namespace Sys2Proof

theorem extract_eq {n k l : Nat} (x : BitVec n) (y : BitVec l) (h : ∀ i < l, x.getLsbD (k + i) = y.getLsbD i) :
    x.extractLsb' k l = y := by
  apply BitVec.eq_of_getLsbD_eq
  intro i hi
  simp [hi, h i hi]

@[simp] theorem wordSendData_cwOp (n : Byte) (u : BitVec 24) : cwOp (wordSendData n u) = 0x01#8 := by
  unfold wordSendData cwOp
  refine extract_eq _ _ fun i hi => ?_
  simp only [BitVec.getLsbD_append]
  grind

@[simp] theorem wordSendData_cwN (n : Byte) (u : BitVec 24) : cwN (wordSendData n u) = n := by
  unfold wordSendData cwN
  refine extract_eq _ _ fun i hi => ?_
  simp only [BitVec.getLsbD_append]
  grind

@[simp] theorem wordSendData_unused (n : Byte) (u : BitVec 24) : (wordSendData n u).extractLsb' 8 24 = u := by
  unfold wordSendData
  refine extract_eq _ _ fun i hi => ?_
  simp only [BitVec.getLsbD_append]
  grind

@[simp] theorem wordSendPacket_cwOp (a b c n : Byte) : cwOp (wordSendPacket a b c n) = 0x02#8 := by
  unfold wordSendPacket cwOp
  refine extract_eq _ _ fun i hi => ?_
  simp only [BitVec.getLsbD_append]
  grind

@[simp] theorem wordSendPacket_cwA (a b c n : Byte) : cwA (wordSendPacket a b c n) = a := by
  unfold wordSendPacket cwA
  refine extract_eq _ _ fun i hi => ?_
  simp only [BitVec.getLsbD_append]
  grind

@[simp] theorem wordSendPacket_cwB (a b c n : Byte) : cwB (wordSendPacket a b c n) = b := by
  unfold wordSendPacket cwB
  refine extract_eq _ _ fun i hi => ?_
  simp only [BitVec.getLsbD_append]
  grind

@[simp] theorem wordSendPacket_cwC (a b c n : Byte) : cwC (wordSendPacket a b c n) = c := by
  unfold wordSendPacket cwC
  refine extract_eq _ _ fun i hi => ?_
  simp only [BitVec.getLsbD_append]
  grind

@[simp] theorem wordSendPacket_cwN (a b c n : Byte) : cwN (wordSendPacket a b c n) = n := by
  unfold wordSendPacket cwN
  refine extract_eq _ _ fun i hi => ?_
  simp only [BitVec.getLsbD_append]
  grind

@[simp] theorem wordSendAck_cwOp (a b : Byte) (u : BitVec 16) : cwOp (wordSendAck a b u) = 0x03#8 := by
  unfold wordSendAck cwOp
  refine extract_eq _ _ fun i hi => ?_
  simp only [BitVec.getLsbD_append]
  grind

@[simp] theorem wordSendAck_cwA (a b : Byte) (u : BitVec 16) : cwA (wordSendAck a b u) = a := by
  unfold wordSendAck cwA
  refine extract_eq _ _ fun i hi => ?_
  simp only [BitVec.getLsbD_append]
  grind

@[simp] theorem wordSendAck_cwB (a b : Byte) (u : BitVec 16) : cwB (wordSendAck a b u) = b := by
  unfold wordSendAck cwB
  refine extract_eq _ _ fun i hi => ?_
  simp only [BitVec.getLsbD_append]
  grind

@[simp] theorem wordSendAck_unused (a b : Byte) (u : BitVec 16) : (wordSendAck a b u).extractLsb' 0 16 = u := by
  unfold wordSendAck
  refine extract_eq _ _ fun i hi => ?_
  simp only [BitVec.getLsbD_append]
  grind

@[simp] theorem wordRecvData_cwOp (u : BitVec 32) : cwOp (wordRecvData u) = 0x04#8 := by
  unfold wordRecvData cwOp
  refine extract_eq _ _ fun i hi => ?_
  simp only [BitVec.getLsbD_append]
  grind

@[simp] theorem wordRecvData_unused (u : BitVec 32) : (wordRecvData u).extractLsb' 0 32 = u := by
  unfold wordRecvData
  refine extract_eq _ _ fun i hi => ?_
  simp only [BitVec.getLsbD_append]
  grind

@[simp] theorem wordRecvHandle_cwOp (a b : Byte) (u : BitVec 16) : cwOp (wordRecvHandle a b u) = 0x05#8 := by
  unfold wordRecvHandle cwOp
  refine extract_eq _ _ fun i hi => ?_
  simp only [BitVec.getLsbD_append]
  grind

@[simp] theorem wordRecvHandle_cwA (a b : Byte) (u : BitVec 16) : cwA (wordRecvHandle a b u) = a := by
  unfold wordRecvHandle cwA
  refine extract_eq _ _ fun i hi => ?_
  simp only [BitVec.getLsbD_append]
  grind

@[simp] theorem wordRecvHandle_cwB (a b : Byte) (u : BitVec 16) : cwB (wordRecvHandle a b u) = b := by
  unfold wordRecvHandle cwB
  refine extract_eq _ _ fun i hi => ?_
  simp only [BitVec.getLsbD_append]
  grind

@[simp] theorem wordRecvHandle_unused (a b : Byte) (u : BitVec 16) : (wordRecvHandle a b u).extractLsb' 0 16 = u := by
  unfold wordRecvHandle
  refine extract_eq _ _ fun i hi => ?_
  simp only [BitVec.getLsbD_append]
  grind

@[simp] theorem wordPktAvail_cwOp (u : BitVec 32) : cwOp (wordPktAvail u) = 0x06#8 := by
  unfold wordPktAvail cwOp
  refine extract_eq _ _ fun i hi => ?_
  simp only [BitVec.getLsbD_append]
  grind

@[simp] theorem wordPktAvail_unused (u : BitVec 32) : (wordPktAvail u).extractLsb' 0 32 = u := by
  unfold wordPktAvail
  refine extract_eq _ _ fun i hi => ?_
  simp only [BitVec.getLsbD_append]
  grind

@[simp] theorem wordSetAddr_cwOp (a : Byte) (u : BitVec 24) : cwOp (wordSetAddr a u) = 0x07#8 := by
  unfold wordSetAddr cwOp
  refine extract_eq _ _ fun i hi => ?_
  simp only [BitVec.getLsbD_append]
  grind

@[simp] theorem wordSetAddr_cwA (a : Byte) (u : BitVec 24) : cwA (wordSetAddr a u) = a := by
  unfold wordSetAddr cwA
  refine extract_eq _ _ fun i hi => ?_
  simp only [BitVec.getLsbD_append]
  grind

@[simp] theorem wordSetAddr_unused (a : Byte) (u : BitVec 24) : (wordSetAddr a u).extractLsb' 0 24 = u := by
  unfold wordSetAddr
  refine extract_eq _ _ fun i hi => ?_
  simp only [BitVec.getLsbD_append]
  grind

@[simp] theorem wordWrPay_cwOp (a b : Byte) (u : BitVec 16) : cwOp (wordWrPay a b u) = 0x08#8 := by
  unfold wordWrPay cwOp
  refine extract_eq _ _ fun i hi => ?_
  simp only [BitVec.getLsbD_append]
  grind

@[simp] theorem wordWrPay_cwA (a b : Byte) (u : BitVec 16) : cwA (wordWrPay a b u) = a := by
  unfold wordWrPay cwA
  refine extract_eq _ _ fun i hi => ?_
  simp only [BitVec.getLsbD_append]
  grind

@[simp] theorem wordWrPay_cwB (a b : Byte) (u : BitVec 16) : cwB (wordWrPay a b u) = b := by
  unfold wordWrPay cwB
  refine extract_eq _ _ fun i hi => ?_
  simp only [BitVec.getLsbD_append]
  grind

@[simp] theorem wordWrPay_unused (a b : Byte) (u : BitVec 16) : (wordWrPay a b u).extractLsb' 0 16 = u := by
  unfold wordWrPay
  refine extract_eq _ _ fun i hi => ?_
  simp only [BitVec.getLsbD_append]
  grind

@[simp] theorem wordRdRx_cwOp (a : Byte) (u : BitVec 24) : cwOp (wordRdRx a u) = 0x09#8 := by
  unfold wordRdRx cwOp
  refine extract_eq _ _ fun i hi => ?_
  simp only [BitVec.getLsbD_append]
  grind

@[simp] theorem wordRdRx_cwA (a : Byte) (u : BitVec 24) : cwA (wordRdRx a u) = a := by
  unfold wordRdRx cwA
  refine extract_eq _ _ fun i hi => ?_
  simp only [BitVec.getLsbD_append]
  grind

@[simp] theorem wordRdRx_unused (a : Byte) (u : BitVec 24) : (wordRdRx a u).extractLsb' 0 24 = u := by
  unfold wordRdRx
  refine extract_eq _ _ fun i hi => ?_
  simp only [BitVec.getLsbD_append]
  grind

theorem statusByteOf_ovf (o : Bool) (c : BitVec 7) : (statusByteOf o c).getLsbD 7 = o := by
  unfold statusByteOf
  rw [BitVec.getLsbD_append]
  simp

@[simp] theorem statusByteOf_bit7 (o : Bool) (c : BitVec 7) : (statusByteOf o c)[7] = o := statusByteOf_ovf o c

/-- A byte is its overflow bit and its count (R66). -/
@[simp] theorem statusByteOf_fields (b : Byte) : statusByteOf b[7] (b.extractLsb' 0 7) = b := by
  unfold statusByteOf
  refine BitVec.eq_of_getLsbD_eq fun i hi => ?_
  simp only [BitVec.getLsbD_append]
  rcases Nat.lt_or_ge i 7 with h | h
  · simp [h]
  · obtain rfl : i = 7 := by omega
    simp

@[simp] theorem statusByteOf_cnt (o : Bool) (c : BitVec 7) : (statusByteOf o c).extractLsb' 0 7 = c := by
  unfold statusByteOf
  refine extract_eq _ _ fun i hi => ?_
  simp only [BitVec.getLsbD_append]
  grind

@[simp] theorem Machine.statusOvf_statusByteOf (o : Bool) (c : BitVec 7) :
    Machine.statusOvf (statusByteOf o c) = o := statusByteOf_ovf o c

@[simp] theorem Machine.statusCnt_statusByteOf (o : Bool) (c : BitVec 7) :
    Machine.statusCnt (statusByteOf o c) = c := statusByteOf_cnt o c

/-- The length byte counts (R60): no wrap up to 255 (R67). -/
theorem lenByte_toNat {n : Nat} (h : n ≤ 255) : (lenByte n).toNat = n := by
  simp [lenByte]
  omega

end Sys2Proof
end

