-- ==== Sys2Proof/Laws/Mem.lean ====
section
/-! SUPPORT. The laws of the buffers: read after write, the canonical form, the bounds (20_memory.md R40 to R44). -/

namespace Sys2Proof.Machine

theorem Mem.wfFrom_mono {lo hi : Nat} (h : lo ≤ hi) : ∀ {m : Mem}, Mem.wfFrom hi m = true → Mem.wfFrom lo m = true
  | [], _ => rfl
  | (k, v) :: m, hm => by
    simp only [Mem.wfFrom, Bool.and_eq_true, decide_eq_true_eq] at hm ⊢
    exact ⟨⟨by omega, hm.1.2⟩, hm.2⟩

/-- Below every listed index a memory reads the unlisted byte. -/
theorem Mem.read_below {lo a : Nat} (h : a < lo) :
    ∀ {m : Mem}, Mem.wfFrom lo m = true → Mem.read m a = Mem.unlisted
  | [], _ => rfl
  | (k, v) :: m, hm => by
    simp only [Mem.wfFrom, Bool.and_eq_true, decide_eq_true_eq] at hm
    rw [Mem.read, if_neg (by omega)]
    exact Mem.read_below (lo := k + 1) (by omega) hm.2

/-- A write keeps the canonical form. -/
theorem Mem.wfFrom_write {lo a : Nat} (v : Byte) (h : lo ≤ a) :
    ∀ {m : Mem}, Mem.wfFrom lo m = true → Mem.wfFrom lo (Mem.write m a v) = true
  | [], _ => by
    by_cases hv : v = Mem.unlisted <;> simp [Mem.write, Mem.wfFrom, hv, h]
  | (k, x) :: m, hm => by
    simp only [Mem.wfFrom, Bool.and_eq_true, decide_eq_true_eq] at hm
    obtain ⟨⟨hk, hx⟩, hr⟩ := hm
    simp only [Mem.write]
    split
    · split
      · simp [Mem.wfFrom, *]
      · simp only [Mem.wfFrom, Bool.and_eq_true, decide_eq_true_eq]
        exact ⟨⟨h, by assumption⟩, ⟨by omega, hx⟩, hr⟩
    · split
      · split
        · exact Mem.wfFrom_mono (by omega) hr
        · simp only [Mem.wfFrom, Bool.and_eq_true, decide_eq_true_eq]
          exact ⟨⟨h, by assumption⟩, by subst a; exact hr⟩
      · simp only [Mem.wfFrom, Bool.and_eq_true, decide_eq_true_eq]
        exact ⟨⟨hk, hx⟩, Mem.wfFrom_write v (by omega) hr⟩

theorem Mem.wf_write {m : Mem} (a : Nat) (v : Byte) (h : Mem.wf m = true) : Mem.wf (Mem.write m a v) = true :=
  Mem.wfFrom_write v (Nat.zero_le a) h

theorem Mem.wf_writeBytes : ∀ (bs : List Byte) {m : Mem} (a : Nat), Mem.wf m = true →
    Mem.wf (Mem.writeBytes m a bs) = true
  | [], _, _, h => h
  | b :: bs, _, a, h => Mem.wf_writeBytes bs (a + 1) (Mem.wf_write a b h)

theorem Mem.within_cons (n k : Nat) (v : Byte) (m : Mem) :
    Mem.within n ((k, v) :: m) = (decide (k < n) && Mem.within n m) := rfl

theorem Mem.within_write {n a : Nat} (v : Byte) (ha : a < n) :
    ∀ {m : Mem}, Mem.within n m = true → Mem.within n (Mem.write m a v) = true
  | [], _ => by by_cases hv : v = Mem.unlisted <;> simp [Mem.write, Mem.within, hv, ha]
  | (k, x) :: m, hm => by
    rw [Mem.within_cons, Bool.and_eq_true, decide_eq_true_eq] at hm
    obtain ⟨hk, hr⟩ := hm
    have := Mem.within_write v ha hr
    simp only [Mem.write]
    split
    · split <;> simp only [Mem.within_cons, ha, hk, hr, decide_true, Bool.and_self]
    · split
      · split <;> simp only [Mem.within_cons, ha, hr, decide_true, Bool.and_self]
      · simp only [Mem.within_cons, hk, this, decide_true, Bool.and_self]

theorem Mem.within_writeBytes {n : Nat} : ∀ (bs : List Byte) {m : Mem} (a : Nat), a + bs.length ≤ n →
    Mem.within n m = true → Mem.within n (Mem.writeBytes m a bs) = true
  | [], _, _, _, h => h
  | b :: bs, _, a, ha, h => by
    simp only [List.length_cons] at ha
    exact Mem.within_writeBytes bs (a + 1) (by omega) (Mem.within_write b (by omega) h)

/-- A read after a write, in a canonical memory. -/
theorem Mem.read_writeFrom {lo a b : Nat} (v : Byte) :
    ∀ {m : Mem}, Mem.wfFrom lo m = true → Mem.read (Mem.write m a v) b = if b = a then v else Mem.read m b
  | [], _ => by
    by_cases hb : b = a
    · by_cases hv : v = Mem.unlisted <;> simp [Mem.write, Mem.read, hv, hb]
    · by_cases hv : v = Mem.unlisted <;> simp [Mem.write, Mem.read, hv, hb, Ne.symm hb]
  | (k, x) :: m, hm => by
    simp only [Mem.wfFrom, Bool.and_eq_true, decide_eq_true_eq] at hm
    obtain ⟨⟨hk, hx⟩, hr⟩ := hm
    simp only [Mem.write]
    split
    · next hak =>
      have below : Mem.read m a = Mem.unlisted := Mem.read_below (lo := k + 1) (by omega) hr
      split
      · next hv =>
        by_cases hb : b = a
        · subst hb
          simp [Mem.read, below, hv, show ¬ k = b by omega]
        · simp [hb]
      · by_cases hb : b = a
        · simp [Mem.read, hb]
        · simp [Mem.read, hb, Ne.symm hb]
    · next hak =>
      split
      · next heq =>
        subst heq
        have below : Mem.read m a = Mem.unlisted := Mem.read_below (lo := a + 1) (by omega) hr
        split
        · next hv =>
          by_cases hb : b = a
          · subst hb; simp [below, hv]
          · simp [Mem.read, hb, Ne.symm hb]
        · by_cases hb : b = a
          · simp [Mem.read, hb]
          · simp [Mem.read, hb, Ne.symm hb]
      · next hne =>
        simp only [Mem.read]
        by_cases hkb : k = b
        · subst hkb
          simp [show ¬ k = a by omega]
        · simp only [hkb, if_false]
          exact Mem.read_writeFrom v hr

theorem Mem.read_write_same {m : Mem} (a : Nat) (v : Byte) (h : Mem.wf m = true) :
    Mem.read (Mem.write m a v) a = v := by simp [Mem.read_writeFrom v h]

theorem Mem.read_write_other {m : Mem} {a b : Nat} (v : Byte) (h : Mem.wf m = true) (hab : b ≠ a) :
    Mem.read (Mem.write m a v) b = Mem.read m b := by simp [Mem.read_writeFrom v h, hab]

/-- Outside the stored bytes a memory reads as before. -/
theorem Mem.read_writeBytes_outside : ∀ (bs : List Byte) {m : Mem} {a b : Nat}, Mem.wf m = true →
    b < a ∨ a + bs.length ≤ b → Mem.read (Mem.writeBytes m a bs) b = Mem.read m b
  | [], _, _, _, _, _ => rfl
  | c :: bs, m, a, b, h, hb => by
    simp only [List.length_cons] at hb
    rw [Mem.writeBytes, Mem.read_writeBytes_outside bs (Mem.wf_write a c h) (by omega),
      Mem.read_write_other c h (by omega)]

/-- Inside the stored bytes a memory reads what was stored. -/
theorem Mem.read_writeBytes_inside : ∀ (bs : List Byte) {m : Mem} {a i : Nat} (hi : i < bs.length), Mem.wf m = true →
    Mem.read (Mem.writeBytes m a bs) (a + i) = bs[i]
  | c :: bs, m, a, 0, _, h => by
    rw [Mem.writeBytes, Mem.read_writeBytes_outside bs (Mem.wf_write a c h) (by omega), Nat.add_zero,
      Mem.read_write_same a c h]
    rfl
  | c :: bs, m, a, i + 1, hi, h => by
    have := Mem.read_writeBytes_inside bs (a := a + 1) (i := i) (by simpa using hi) (Mem.wf_write a c h)
    rw [Mem.writeBytes, show a + (i + 1) = a + 1 + i by omega, this]
    rfl

@[simp] theorem Mem.length_readBytes (m : Mem) : ∀ (a n : Nat), (Mem.readBytes m a n).length = n
  | _, 0 => rfl
  | a, n + 1 => by simp [Mem.readBytes, Mem.length_readBytes m (a + 1) n]

@[simp] theorem Mem.getElem_readBytes (m : Mem) : ∀ (a n i : Nat) (h : i < (Mem.readBytes m a n).length),
    (Mem.readBytes m a n)[i] = Mem.read m (a + i)
  | a, n + 1, 0, _ => rfl
  | a, n + 1, i + 1, h => by
    have := Mem.getElem_readBytes m (a + 1) n i (by simpa using h)
    simp only [Mem.readBytes, List.getElem_cons_succ, this]
    congr 1
    omega

/-- Reading back the stored bytes gives them. -/
theorem Mem.readBytes_writeBytes {m : Mem} (a : Nat) (bs : List Byte) (h : Mem.wf m = true) :
    Mem.readBytes (Mem.writeBytes m a bs) a bs.length = bs := by
  apply List.ext_getElem (by simp)
  intro i h1 h2
  simp [Mem.read_writeBytes_inside bs h2 h]

/-- A canonical memory is determined by what it reads. -/
theorem Mem.eq_of_readFrom : ∀ {lo : Nat} {m n : Mem}, Mem.wfFrom lo m = true → Mem.wfFrom lo n = true →
    (∀ a, Mem.read m a = Mem.read n a) → m = n
  | _, [], [], _, _, _ => rfl
  | lo, [], (k, v) :: n, _, hn, h => by
    simp only [Mem.wfFrom, Bool.and_eq_true, decide_eq_true_eq] at hn
    exact absurd (by simpa [Mem.read] using (h k).symm) hn.1.2
  | lo, (k, v) :: m, [], hm, _, h => by
    simp only [Mem.wfFrom, Bool.and_eq_true, decide_eq_true_eq] at hm
    exact absurd (by simpa [Mem.read] using h k) hm.1.2
  | lo, (k, v) :: m, (k', v') :: n, hm, hn, h => by
    have hm' := hm
    have hn' := hn
    simp only [Mem.wfFrom, Bool.and_eq_true, decide_eq_true_eq] at hm' hn'
    obtain ⟨⟨hk, hv⟩, hmr⟩ := hm'
    obtain ⟨⟨hk', hv'⟩, hnr⟩ := hn'
    have key : k = k' := by
      rcases Nat.lt_trichotomy k k' with hlt | heq | hgt
      · have h1 := h k
        rw [Mem.read, if_pos rfl, Mem.read, if_neg (by omega),
          Mem.read_below (lo := k' + 1) (by omega) hnr] at h1
        exact absurd h1 hv
      · exact heq
      · have h1 := h k'
        rw [Mem.read, if_neg (by omega), Mem.read_below (lo := k + 1) (by omega) hmr, Mem.read, if_pos rfl] at h1
        exact absurd h1.symm hv'
    subst key
    have hvv : v = v' := by simpa [Mem.read] using h k
    subst hvv
    have : m = n := Mem.eq_of_readFrom hmr hnr (fun a => by
      by_cases ha : k = a
      · subst ha
        rw [Mem.read_below (lo := k + 1) (by omega) hmr, Mem.read_below (lo := k + 1) (by omega) hnr]
      · simpa [Mem.read, ha] using h a)
    rw [this]

theorem Mem.eq_of_read {m n : Mem} (hm : Mem.wf m = true) (hn : Mem.wf n = true)
    (h : ∀ a, Mem.read m a = Mem.read n a) : m = n := Mem.eq_of_readFrom hm hn h

end Sys2Proof.Machine
end

