-- ==== Sys2Proof/Laws/State.lean ====
section
/-! SUPPORT. What each update leaves in each field of the state: one lemma per field per update, by definition. -/

namespace Sys2Proof.Machine

@[simp] theorem accept_pay (w : CmdWord) (s : State) : (accept w s).pay = s.pay := rfl
@[simp] theorem accept_txbuf (w : CmdWord) (s : State) : (accept w s).txbuf = s.txbuf := rfl
@[simp] theorem accept_rxbuf (w : CmdWord) (s : State) : (accept w s).rxbuf = s.rxbuf := rfl
@[simp] theorem accept_rLen (w : CmdWord) (s : State) : (accept w s).rLen = s.rLen := rfl
@[simp] theorem accept_rDest (w : CmdWord) (s : State) : (accept w s).rDest = s.rDest := rfl
@[simp] theorem accept_rSrc (w : CmdWord) (s : State) : (accept w s).rSrc = s.rSrc := rfl
@[simp] theorem accept_rRssiRaw (w : CmdWord) (s : State) : (accept w s).rRssiRaw = s.rRssiRaw := rfl
@[simp] theorem accept_rLqiRaw (w : CmdWord) (s : State) : (accept w s).rLqiRaw = s.rLqiRaw := rfl
@[simp] theorem accept_rdData (w : CmdWord) (s : State) : (accept w s).rdData = s.rdData := rfl
@[simp] theorem accept_fsm (w : CmdWord) (s : State) : (accept w s).fsm = s.fsm := rfl
@[simp] theorem accept_ctx (w : CmdWord) (s : State) : (accept w s).ctx = s.ctx := rfl
@[simp] theorem accept_cmdw (w : CmdWord) (s : State) : (accept w s).cmdw = w := rfl
@[simp] theorem accept_rdres (w : CmdWord) (s : State) : (accept w s).rdres = s.rdres := rfl
@[simp] theorem accept_txres (w : CmdWord) (s : State) : (accept w s).txres = s.txres := rfl
@[simp] theorem accept_status (w : CmdWord) (s : State) : (accept w s).status = { busy := true, done := false, ok := false, rxcode := .ack } := rfl
@[simp] theorem accept_err (w : CmdWord) (s : State) : (accept w s).err = { code := .none, att := .none } := rfl
@[simp] theorem accept_ownAddr (w : CmdWord) (s : State) : (accept w s).ownAddr = s.ownAddr := rfl
@[simp] theorem accept_xSelf (w : CmdWord) (s : State) : (accept w s).xSelf = s.xSelf := rfl
@[simp] theorem accept_xPeer (w : CmdWord) (s : State) : (accept w s).xPeer = s.xPeer := rfl
@[simp] theorem accept_xMaxRetry (w : CmdWord) (s : State) : (accept w s).xMaxRetry = s.xMaxRetry := rfl
@[simp] theorem accept_xN (w : CmdWord) (s : State) : (accept w s).xN = s.xN := rfl
@[simp] theorem accept_retryCnt (w : CmdWord) (s : State) : (accept w s).retryCnt = s.retryCnt := rfl
@[simp] theorem accept_waitCnt (w : CmdWord) (s : State) : (accept w s).waitCnt = s.waitCnt := rfl
@[simp] theorem accept_rxFlag (w : CmdWord) (s : State) : (accept w s).rxFlag = s.rxFlag := rfl
@[simp] theorem accept_ports (w : CmdWord) (s : State) : (accept w s).ports = s.ports := rfl
@[simp] theorem accept_chip (w : CmdWord) (s : State) : (accept w s).chip = s.chip := rfl
@[simp] theorem accept_cfg (w : CmdWord) (s : State) : (accept w s).cfg = s.cfg := rfl
@[simp] theorem accept_script (w : CmdWord) (s : State) : (accept w s).script = s.script := rfl
@[simp] theorem accept_now (w : CmdWord) (s : State) : (accept w s).now = s.now := rfl
@[simp] theorem accept_trace (w : CmdWord) (s : State) : (accept w s).trace = [] := rfl

@[simp] theorem finish_pay (ok : Bool) (rx : RxCode) (s : State) : (finish ok rx s).pay = s.pay := rfl
@[simp] theorem finish_txbuf (ok : Bool) (rx : RxCode) (s : State) : (finish ok rx s).txbuf = s.txbuf := rfl
@[simp] theorem finish_rxbuf (ok : Bool) (rx : RxCode) (s : State) : (finish ok rx s).rxbuf = s.rxbuf := rfl
@[simp] theorem finish_rLen (ok : Bool) (rx : RxCode) (s : State) : (finish ok rx s).rLen = s.rLen := rfl
@[simp] theorem finish_rDest (ok : Bool) (rx : RxCode) (s : State) : (finish ok rx s).rDest = s.rDest := rfl
@[simp] theorem finish_rSrc (ok : Bool) (rx : RxCode) (s : State) : (finish ok rx s).rSrc = s.rSrc := rfl
@[simp] theorem finish_rRssiRaw (ok : Bool) (rx : RxCode) (s : State) : (finish ok rx s).rRssiRaw = s.rRssiRaw := rfl
@[simp] theorem finish_rLqiRaw (ok : Bool) (rx : RxCode) (s : State) : (finish ok rx s).rLqiRaw = s.rLqiRaw := rfl
@[simp] theorem finish_rdData (ok : Bool) (rx : RxCode) (s : State) : (finish ok rx s).rdData = s.rdData := rfl
@[simp] theorem finish_fsm (ok : Bool) (rx : RxCode) (s : State) : (finish ok rx s).fsm = .idle := rfl
@[simp] theorem finish_ctx (ok : Bool) (rx : RxCode) (s : State) : (finish ok rx s).ctx = .none := rfl
@[simp] theorem finish_cmdw (ok : Bool) (rx : RxCode) (s : State) : (finish ok rx s).cmdw = s.cmdw := rfl
@[simp] theorem finish_rdres (ok : Bool) (rx : RxCode) (s : State) : (finish ok rx s).rdres = s.rdres := rfl
@[simp] theorem finish_txres (ok : Bool) (rx : RxCode) (s : State) : (finish ok rx s).txres = s.txres := rfl
@[simp] theorem finish_status (ok : Bool) (rx : RxCode) (s : State) : (finish ok rx s).status = { busy := false, done := true, ok := ok, rxcode := rx } := rfl
@[simp] theorem finish_err (ok : Bool) (rx : RxCode) (s : State) : (finish ok rx s).err = s.err := rfl
@[simp] theorem finish_ownAddr (ok : Bool) (rx : RxCode) (s : State) : (finish ok rx s).ownAddr = s.ownAddr := rfl
@[simp] theorem finish_xSelf (ok : Bool) (rx : RxCode) (s : State) : (finish ok rx s).xSelf = s.xSelf := rfl
@[simp] theorem finish_xPeer (ok : Bool) (rx : RxCode) (s : State) : (finish ok rx s).xPeer = s.xPeer := rfl
@[simp] theorem finish_xMaxRetry (ok : Bool) (rx : RxCode) (s : State) : (finish ok rx s).xMaxRetry = s.xMaxRetry := rfl
@[simp] theorem finish_xN (ok : Bool) (rx : RxCode) (s : State) : (finish ok rx s).xN = s.xN := rfl
@[simp] theorem finish_retryCnt (ok : Bool) (rx : RxCode) (s : State) : (finish ok rx s).retryCnt = s.retryCnt := rfl
@[simp] theorem finish_waitCnt (ok : Bool) (rx : RxCode) (s : State) : (finish ok rx s).waitCnt = s.waitCnt := rfl
@[simp] theorem finish_rxFlag (ok : Bool) (rx : RxCode) (s : State) : (finish ok rx s).rxFlag = s.rxFlag := rfl
@[simp] theorem finish_ports (ok : Bool) (rx : RxCode) (s : State) : (finish ok rx s).ports = s.ports := rfl
@[simp] theorem finish_chip (ok : Bool) (rx : RxCode) (s : State) : (finish ok rx s).chip = s.chip := rfl
@[simp] theorem finish_cfg (ok : Bool) (rx : RxCode) (s : State) : (finish ok rx s).cfg = s.cfg := rfl
@[simp] theorem finish_script (ok : Bool) (rx : RxCode) (s : State) : (finish ok rx s).script = s.script := rfl
@[simp] theorem finish_now (ok : Bool) (rx : RxCode) (s : State) : (finish ok rx s).now = s.now := rfl
@[simp] theorem finish_trace (ok : Bool) (rx : RxCode) (s : State) : (finish ok rx s).trace = s.trace := rfl

@[simp] theorem raiseError_pay (e : ErrCode) (s : State) : (raiseError e s).pay = s.pay := rfl
@[simp] theorem raiseError_txbuf (e : ErrCode) (s : State) : (raiseError e s).txbuf = s.txbuf := rfl
@[simp] theorem raiseError_rxbuf (e : ErrCode) (s : State) : (raiseError e s).rxbuf = s.rxbuf := rfl
@[simp] theorem raiseError_rLen (e : ErrCode) (s : State) : (raiseError e s).rLen = s.rLen := rfl
@[simp] theorem raiseError_rDest (e : ErrCode) (s : State) : (raiseError e s).rDest = s.rDest := rfl
@[simp] theorem raiseError_rSrc (e : ErrCode) (s : State) : (raiseError e s).rSrc = s.rSrc := rfl
@[simp] theorem raiseError_rRssiRaw (e : ErrCode) (s : State) : (raiseError e s).rRssiRaw = s.rRssiRaw := rfl
@[simp] theorem raiseError_rLqiRaw (e : ErrCode) (s : State) : (raiseError e s).rLqiRaw = s.rLqiRaw := rfl
@[simp] theorem raiseError_rdData (e : ErrCode) (s : State) : (raiseError e s).rdData = s.rdData := rfl
@[simp] theorem raiseError_fsm (e : ErrCode) (s : State) : (raiseError e s).fsm = .idle := rfl
@[simp] theorem raiseError_ctx (e : ErrCode) (s : State) : (raiseError e s).ctx = .none := rfl
@[simp] theorem raiseError_cmdw (e : ErrCode) (s : State) : (raiseError e s).cmdw = s.cmdw := rfl
@[simp] theorem raiseError_rdres (e : ErrCode) (s : State) : (raiseError e s).rdres = s.rdres := rfl
@[simp] theorem raiseError_txres (e : ErrCode) (s : State) : (raiseError e s).txres = s.txres := rfl
@[simp] theorem raiseError_status (e : ErrCode) (s : State) : (raiseError e s).status = { busy := false, done := true, ok := false, rxcode := raiseRxCode s.cfg.linkLayer s.cmdw e } := rfl
@[simp] theorem raiseError_err (e : ErrCode) (s : State) : (raiseError e s).err = { s.err with code := e } := rfl
@[simp] theorem raiseError_ownAddr (e : ErrCode) (s : State) : (raiseError e s).ownAddr = s.ownAddr := rfl
@[simp] theorem raiseError_xSelf (e : ErrCode) (s : State) : (raiseError e s).xSelf = s.xSelf := rfl
@[simp] theorem raiseError_xPeer (e : ErrCode) (s : State) : (raiseError e s).xPeer = s.xPeer := rfl
@[simp] theorem raiseError_xMaxRetry (e : ErrCode) (s : State) : (raiseError e s).xMaxRetry = s.xMaxRetry := rfl
@[simp] theorem raiseError_xN (e : ErrCode) (s : State) : (raiseError e s).xN = s.xN := rfl
@[simp] theorem raiseError_retryCnt (e : ErrCode) (s : State) : (raiseError e s).retryCnt = s.retryCnt := rfl
@[simp] theorem raiseError_waitCnt (e : ErrCode) (s : State) : (raiseError e s).waitCnt = s.waitCnt := rfl
@[simp] theorem raiseError_rxFlag (e : ErrCode) (s : State) : (raiseError e s).rxFlag = s.rxFlag := rfl
@[simp] theorem raiseError_ports (e : ErrCode) (s : State) : (raiseError e s).ports = s.ports := rfl
@[simp] theorem raiseError_chip (e : ErrCode) (s : State) : (raiseError e s).chip = s.chip := rfl
@[simp] theorem raiseError_cfg (e : ErrCode) (s : State) : (raiseError e s).cfg = s.cfg := rfl
@[simp] theorem raiseError_script (e : ErrCode) (s : State) : (raiseError e s).script = s.script := rfl
@[simp] theorem raiseError_now (e : ErrCode) (s : State) : (raiseError e s).now = s.now := rfl
@[simp] theorem raiseError_trace (e : ErrCode) (s : State) : (raiseError e s).trace = s.trace := rfl

@[simp] theorem State.log_pay (s : State) (i : Interaction) : (s.log i).pay = s.pay := rfl
@[simp] theorem State.log_txbuf (s : State) (i : Interaction) : (s.log i).txbuf = s.txbuf := rfl
@[simp] theorem State.log_rxbuf (s : State) (i : Interaction) : (s.log i).rxbuf = s.rxbuf := rfl
@[simp] theorem State.log_rLen (s : State) (i : Interaction) : (s.log i).rLen = s.rLen := rfl
@[simp] theorem State.log_rDest (s : State) (i : Interaction) : (s.log i).rDest = s.rDest := rfl
@[simp] theorem State.log_rSrc (s : State) (i : Interaction) : (s.log i).rSrc = s.rSrc := rfl
@[simp] theorem State.log_rRssiRaw (s : State) (i : Interaction) : (s.log i).rRssiRaw = s.rRssiRaw := rfl
@[simp] theorem State.log_rLqiRaw (s : State) (i : Interaction) : (s.log i).rLqiRaw = s.rLqiRaw := rfl
@[simp] theorem State.log_rdData (s : State) (i : Interaction) : (s.log i).rdData = s.rdData := rfl
@[simp] theorem State.log_fsm (s : State) (i : Interaction) : (s.log i).fsm = s.fsm := rfl
@[simp] theorem State.log_ctx (s : State) (i : Interaction) : (s.log i).ctx = s.ctx := rfl
@[simp] theorem State.log_cmdw (s : State) (i : Interaction) : (s.log i).cmdw = s.cmdw := rfl
@[simp] theorem State.log_rdres (s : State) (i : Interaction) : (s.log i).rdres = s.rdres := rfl
@[simp] theorem State.log_txres (s : State) (i : Interaction) : (s.log i).txres = s.txres := rfl
@[simp] theorem State.log_status (s : State) (i : Interaction) : (s.log i).status = s.status := rfl
@[simp] theorem State.log_err (s : State) (i : Interaction) : (s.log i).err = s.err := rfl
@[simp] theorem State.log_ownAddr (s : State) (i : Interaction) : (s.log i).ownAddr = s.ownAddr := rfl
@[simp] theorem State.log_xSelf (s : State) (i : Interaction) : (s.log i).xSelf = s.xSelf := rfl
@[simp] theorem State.log_xPeer (s : State) (i : Interaction) : (s.log i).xPeer = s.xPeer := rfl
@[simp] theorem State.log_xMaxRetry (s : State) (i : Interaction) : (s.log i).xMaxRetry = s.xMaxRetry := rfl
@[simp] theorem State.log_xN (s : State) (i : Interaction) : (s.log i).xN = s.xN := rfl
@[simp] theorem State.log_retryCnt (s : State) (i : Interaction) : (s.log i).retryCnt = s.retryCnt := rfl
@[simp] theorem State.log_waitCnt (s : State) (i : Interaction) : (s.log i).waitCnt = s.waitCnt := rfl
@[simp] theorem State.log_rxFlag (s : State) (i : Interaction) : (s.log i).rxFlag = s.rxFlag := rfl
@[simp] theorem State.log_ports (s : State) (i : Interaction) : (s.log i).ports = s.ports := rfl
@[simp] theorem State.log_chip (s : State) (i : Interaction) : (s.log i).chip = s.chip := rfl
@[simp] theorem State.log_cfg (s : State) (i : Interaction) : (s.log i).cfg = s.cfg := rfl
@[simp] theorem State.log_script (s : State) (i : Interaction) : (s.log i).script = s.script := rfl
@[simp] theorem State.log_now (s : State) (i : Interaction) : (s.log i).now = s.now := rfl
@[simp] theorem State.log_trace (s : State) (i : Interaction) : (s.log i).trace = s.trace ++ [i] := rfl

@[simp] theorem State.advance_pay (s : State) : (s.advance).pay = s.pay := rfl
@[simp] theorem State.advance_txbuf (s : State) : (s.advance).txbuf = s.txbuf := rfl
@[simp] theorem State.advance_rxbuf (s : State) : (s.advance).rxbuf = s.rxbuf := rfl
@[simp] theorem State.advance_rLen (s : State) : (s.advance).rLen = s.rLen := rfl
@[simp] theorem State.advance_rDest (s : State) : (s.advance).rDest = s.rDest := rfl
@[simp] theorem State.advance_rSrc (s : State) : (s.advance).rSrc = s.rSrc := rfl
@[simp] theorem State.advance_rRssiRaw (s : State) : (s.advance).rRssiRaw = s.rRssiRaw := rfl
@[simp] theorem State.advance_rLqiRaw (s : State) : (s.advance).rLqiRaw = s.rLqiRaw := rfl
@[simp] theorem State.advance_rdData (s : State) : (s.advance).rdData = s.rdData := rfl
@[simp] theorem State.advance_fsm (s : State) : (s.advance).fsm = s.fsm := rfl
@[simp] theorem State.advance_ctx (s : State) : (s.advance).ctx = s.ctx := rfl
@[simp] theorem State.advance_cmdw (s : State) : (s.advance).cmdw = s.cmdw := rfl
@[simp] theorem State.advance_rdres (s : State) : (s.advance).rdres = s.rdres := rfl
@[simp] theorem State.advance_txres (s : State) : (s.advance).txres = s.txres := rfl
@[simp] theorem State.advance_status (s : State) : (s.advance).status = s.status := rfl
@[simp] theorem State.advance_err (s : State) : (s.advance).err = s.err := rfl
@[simp] theorem State.advance_ownAddr (s : State) : (s.advance).ownAddr = s.ownAddr := rfl
@[simp] theorem State.advance_xSelf (s : State) : (s.advance).xSelf = s.xSelf := rfl
@[simp] theorem State.advance_xPeer (s : State) : (s.advance).xPeer = s.xPeer := rfl
@[simp] theorem State.advance_xMaxRetry (s : State) : (s.advance).xMaxRetry = s.xMaxRetry := rfl
@[simp] theorem State.advance_xN (s : State) : (s.advance).xN = s.xN := rfl
@[simp] theorem State.advance_retryCnt (s : State) : (s.advance).retryCnt = s.retryCnt := rfl
@[simp] theorem State.advance_waitCnt (s : State) : (s.advance).waitCnt = s.waitCnt := rfl
@[simp] theorem State.advance_rxFlag (s : State) : (s.advance).rxFlag = s.rxFlag := rfl
@[simp] theorem State.advance_ports (s : State) : (s.advance).ports = s.ports := rfl
@[simp] theorem State.advance_chip (s : State) : (s.advance).chip = s.chip := rfl
@[simp] theorem State.advance_cfg (s : State) : (s.advance).cfg = s.cfg := rfl
@[simp] theorem State.advance_script (s : State) : (s.advance).script = s.script.tail := rfl
@[simp] theorem State.advance_now (s : State) : (s.advance).now = s.now + 1 := rfl
@[simp] theorem State.advance_trace (s : State) : (s.advance).trace = s.trace := rfl

@[simp] theorem receive_pay (bs : List Byte) (s : State) : (receive bs s).pay = s.pay := rfl
@[simp] theorem receive_txbuf (bs : List Byte) (s : State) : (receive bs s).txbuf = s.txbuf := rfl
@[simp] theorem receive_rxbuf (bs : List Byte) (s : State) : (receive bs s).rxbuf = s.rxbuf := rfl
@[simp] theorem receive_rLen (bs : List Byte) (s : State) : (receive bs s).rLen = s.rLen := rfl
@[simp] theorem receive_rDest (bs : List Byte) (s : State) : (receive bs s).rDest = s.rDest := rfl
@[simp] theorem receive_rSrc (bs : List Byte) (s : State) : (receive bs s).rSrc = s.rSrc := rfl
@[simp] theorem receive_rRssiRaw (bs : List Byte) (s : State) : (receive bs s).rRssiRaw = s.rRssiRaw := rfl
@[simp] theorem receive_rLqiRaw (bs : List Byte) (s : State) : (receive bs s).rLqiRaw = s.rLqiRaw := rfl
@[simp] theorem receive_rdData (bs : List Byte) (s : State) : (receive bs s).rdData = s.rdData := rfl
@[simp] theorem receive_fsm (bs : List Byte) (s : State) : (receive bs s).fsm = s.fsm := rfl
@[simp] theorem receive_ctx (bs : List Byte) (s : State) : (receive bs s).ctx = s.ctx := rfl
@[simp] theorem receive_cmdw (bs : List Byte) (s : State) : (receive bs s).cmdw = s.cmdw := rfl
@[simp] theorem receive_rdres (bs : List Byte) (s : State) : (receive bs s).rdres = s.rdres := rfl
@[simp] theorem receive_txres (bs : List Byte) (s : State) : (receive bs s).txres = s.txres := rfl
@[simp] theorem receive_status (bs : List Byte) (s : State) : (receive bs s).status = s.status := rfl
@[simp] theorem receive_err (bs : List Byte) (s : State) : (receive bs s).err = s.err := rfl
@[simp] theorem receive_ownAddr (bs : List Byte) (s : State) : (receive bs s).ownAddr = s.ownAddr := rfl
@[simp] theorem receive_xSelf (bs : List Byte) (s : State) : (receive bs s).xSelf = s.xSelf := rfl
@[simp] theorem receive_xPeer (bs : List Byte) (s : State) : (receive bs s).xPeer = s.xPeer := rfl
@[simp] theorem receive_xMaxRetry (bs : List Byte) (s : State) : (receive bs s).xMaxRetry = s.xMaxRetry := rfl
@[simp] theorem receive_xN (bs : List Byte) (s : State) : (receive bs s).xN = s.xN := rfl
@[simp] theorem receive_retryCnt (bs : List Byte) (s : State) : (receive bs s).retryCnt = s.retryCnt := rfl
@[simp] theorem receive_waitCnt (bs : List Byte) (s : State) : (receive bs s).waitCnt = s.waitCnt := rfl
@[simp] theorem receive_rxFlag (bs : List Byte) (s : State) : (receive bs s).rxFlag = s.rxFlag := rfl
@[simp] theorem receive_ports (bs : List Byte) (s : State) : (receive bs s).ports = s.ports := rfl
@[simp] theorem receive_chip (bs : List Byte) (s : State) : (receive bs s).chip = { s.chip with rxFifo := s.chip.rxFifo ++ bs } := rfl
@[simp] theorem receive_cfg (bs : List Byte) (s : State) : (receive bs s).cfg = s.cfg := rfl
@[simp] theorem receive_script (bs : List Byte) (s : State) : (receive bs s).script = s.script := rfl
@[simp] theorem receive_now (bs : List Byte) (s : State) : (receive bs s).now = s.now := rfl
@[simp] theorem receive_trace (bs : List Byte) (s : State) : (receive bs s).trace = s.trace := rfl

@[simp] theorem setInitOk_pay (b : Bool) (s : State) : (setInitOk b s).pay = s.pay := rfl
@[simp] theorem setInitOk_txbuf (b : Bool) (s : State) : (setInitOk b s).txbuf = s.txbuf := rfl
@[simp] theorem setInitOk_rxbuf (b : Bool) (s : State) : (setInitOk b s).rxbuf = s.rxbuf := rfl
@[simp] theorem setInitOk_rLen (b : Bool) (s : State) : (setInitOk b s).rLen = s.rLen := rfl
@[simp] theorem setInitOk_rDest (b : Bool) (s : State) : (setInitOk b s).rDest = s.rDest := rfl
@[simp] theorem setInitOk_rSrc (b : Bool) (s : State) : (setInitOk b s).rSrc = s.rSrc := rfl
@[simp] theorem setInitOk_rRssiRaw (b : Bool) (s : State) : (setInitOk b s).rRssiRaw = s.rRssiRaw := rfl
@[simp] theorem setInitOk_rLqiRaw (b : Bool) (s : State) : (setInitOk b s).rLqiRaw = s.rLqiRaw := rfl
@[simp] theorem setInitOk_rdData (b : Bool) (s : State) : (setInitOk b s).rdData = s.rdData := rfl
@[simp] theorem setInitOk_fsm (b : Bool) (s : State) : (setInitOk b s).fsm = s.fsm := rfl
@[simp] theorem setInitOk_ctx (b : Bool) (s : State) : (setInitOk b s).ctx = s.ctx := rfl
@[simp] theorem setInitOk_cmdw (b : Bool) (s : State) : (setInitOk b s).cmdw = s.cmdw := rfl
@[simp] theorem setInitOk_rdres (b : Bool) (s : State) : (setInitOk b s).rdres = s.rdres := rfl
@[simp] theorem setInitOk_txres (b : Bool) (s : State) : (setInitOk b s).txres = s.txres := rfl
@[simp] theorem setInitOk_status (b : Bool) (s : State) : (setInitOk b s).status = s.status := rfl
@[simp] theorem setInitOk_err (b : Bool) (s : State) : (setInitOk b s).err = s.err := rfl
@[simp] theorem setInitOk_ownAddr (b : Bool) (s : State) : (setInitOk b s).ownAddr = s.ownAddr := rfl
@[simp] theorem setInitOk_xSelf (b : Bool) (s : State) : (setInitOk b s).xSelf = s.xSelf := rfl
@[simp] theorem setInitOk_xPeer (b : Bool) (s : State) : (setInitOk b s).xPeer = s.xPeer := rfl
@[simp] theorem setInitOk_xMaxRetry (b : Bool) (s : State) : (setInitOk b s).xMaxRetry = s.xMaxRetry := rfl
@[simp] theorem setInitOk_xN (b : Bool) (s : State) : (setInitOk b s).xN = s.xN := rfl
@[simp] theorem setInitOk_retryCnt (b : Bool) (s : State) : (setInitOk b s).retryCnt = s.retryCnt := rfl
@[simp] theorem setInitOk_waitCnt (b : Bool) (s : State) : (setInitOk b s).waitCnt = s.waitCnt := rfl
@[simp] theorem setInitOk_rxFlag (b : Bool) (s : State) : (setInitOk b s).rxFlag = s.rxFlag := rfl
@[simp] theorem setInitOk_ports (b : Bool) (s : State) : (setInitOk b s).ports = { s.ports with initOk := b } := rfl
@[simp] theorem setInitOk_chip (b : Bool) (s : State) : (setInitOk b s).chip = s.chip := rfl
@[simp] theorem setInitOk_cfg (b : Bool) (s : State) : (setInitOk b s).cfg = s.cfg := rfl
@[simp] theorem setInitOk_script (b : Bool) (s : State) : (setInitOk b s).script = s.script := rfl
@[simp] theorem setInitOk_now (b : Bool) (s : State) : (setInitOk b s).now = s.now := rfl
@[simp] theorem setInitOk_trace (b : Bool) (s : State) : (setInitOk b s).trace = s.trace := rfl

@[simp] theorem rxArrive_pay (bs : List Byte) (o : Bool) (s : State) : (rxArrive bs o s).pay = s.pay := rfl
@[simp] theorem rxArrive_txbuf (bs : List Byte) (o : Bool) (s : State) : (rxArrive bs o s).txbuf = s.txbuf := rfl
@[simp] theorem rxArrive_rxbuf (bs : List Byte) (o : Bool) (s : State) : (rxArrive bs o s).rxbuf = s.rxbuf := rfl
@[simp] theorem rxArrive_rLen (bs : List Byte) (o : Bool) (s : State) : (rxArrive bs o s).rLen = s.rLen := rfl
@[simp] theorem rxArrive_rDest (bs : List Byte) (o : Bool) (s : State) : (rxArrive bs o s).rDest = s.rDest := rfl
@[simp] theorem rxArrive_rSrc (bs : List Byte) (o : Bool) (s : State) : (rxArrive bs o s).rSrc = s.rSrc := rfl
@[simp] theorem rxArrive_rRssiRaw (bs : List Byte) (o : Bool) (s : State) : (rxArrive bs o s).rRssiRaw = s.rRssiRaw := rfl
@[simp] theorem rxArrive_rLqiRaw (bs : List Byte) (o : Bool) (s : State) : (rxArrive bs o s).rLqiRaw = s.rLqiRaw := rfl
@[simp] theorem rxArrive_rdData (bs : List Byte) (o : Bool) (s : State) : (rxArrive bs o s).rdData = s.rdData := rfl
@[simp] theorem rxArrive_fsm (bs : List Byte) (o : Bool) (s : State) : (rxArrive bs o s).fsm = s.fsm := rfl
@[simp] theorem rxArrive_ctx (bs : List Byte) (o : Bool) (s : State) : (rxArrive bs o s).ctx = s.ctx := rfl
@[simp] theorem rxArrive_cmdw (bs : List Byte) (o : Bool) (s : State) : (rxArrive bs o s).cmdw = s.cmdw := rfl
@[simp] theorem rxArrive_rdres (bs : List Byte) (o : Bool) (s : State) : (rxArrive bs o s).rdres = s.rdres := rfl
@[simp] theorem rxArrive_txres (bs : List Byte) (o : Bool) (s : State) : (rxArrive bs o s).txres = s.txres := rfl
@[simp] theorem rxArrive_status (bs : List Byte) (o : Bool) (s : State) : (rxArrive bs o s).status = s.status := rfl
@[simp] theorem rxArrive_err (bs : List Byte) (o : Bool) (s : State) : (rxArrive bs o s).err = s.err := rfl
@[simp] theorem rxArrive_ownAddr (bs : List Byte) (o : Bool) (s : State) : (rxArrive bs o s).ownAddr = s.ownAddr := rfl
@[simp] theorem rxArrive_xSelf (bs : List Byte) (o : Bool) (s : State) : (rxArrive bs o s).xSelf = s.xSelf := rfl
@[simp] theorem rxArrive_xPeer (bs : List Byte) (o : Bool) (s : State) : (rxArrive bs o s).xPeer = s.xPeer := rfl
@[simp] theorem rxArrive_xMaxRetry (bs : List Byte) (o : Bool) (s : State) : (rxArrive bs o s).xMaxRetry = s.xMaxRetry := rfl
@[simp] theorem rxArrive_xN (bs : List Byte) (o : Bool) (s : State) : (rxArrive bs o s).xN = s.xN := rfl
@[simp] theorem rxArrive_retryCnt (bs : List Byte) (o : Bool) (s : State) : (rxArrive bs o s).retryCnt = s.retryCnt := rfl
@[simp] theorem rxArrive_waitCnt (bs : List Byte) (o : Bool) (s : State) : (rxArrive bs o s).waitCnt = s.waitCnt := rfl
@[simp] theorem rxArrive_rxFlag (bs : List Byte) (o : Bool) (s : State) : (rxArrive bs o s).rxFlag = s.rxFlag := rfl
@[simp] theorem rxArrive_ports (bs : List Byte) (o : Bool) (s : State) : (rxArrive bs o s).ports = s.ports := rfl
@[simp] theorem rxArrive_chip (bs : List Byte) (o : Bool) (s : State) : (rxArrive bs o s).chip = { s.chip with rxFifo := s.chip.rxFifo ++ bs, rxOvf := s.chip.rxOvf || o } := rfl
@[simp] theorem rxArrive_cfg (bs : List Byte) (o : Bool) (s : State) : (rxArrive bs o s).cfg = s.cfg := rfl
@[simp] theorem rxArrive_script (bs : List Byte) (o : Bool) (s : State) : (rxArrive bs o s).script = s.script := rfl
@[simp] theorem rxArrive_now (bs : List Byte) (o : Bool) (s : State) : (rxArrive bs o s).now = s.now := rfl
@[simp] theorem rxArrive_trace (bs : List Byte) (o : Bool) (s : State) : (rxArrive bs o s).trace = s.trace := rfl

@[simp] theorem chipReset_pay (s : State) : (chipReset s).pay = s.pay := rfl
@[simp] theorem chipReset_txbuf (s : State) : (chipReset s).txbuf = s.txbuf := rfl
@[simp] theorem chipReset_rxbuf (s : State) : (chipReset s).rxbuf = s.rxbuf := rfl
@[simp] theorem chipReset_rLen (s : State) : (chipReset s).rLen = s.rLen := rfl
@[simp] theorem chipReset_rDest (s : State) : (chipReset s).rDest = s.rDest := rfl
@[simp] theorem chipReset_rSrc (s : State) : (chipReset s).rSrc = s.rSrc := rfl
@[simp] theorem chipReset_rRssiRaw (s : State) : (chipReset s).rRssiRaw = s.rRssiRaw := rfl
@[simp] theorem chipReset_rLqiRaw (s : State) : (chipReset s).rLqiRaw = s.rLqiRaw := rfl
@[simp] theorem chipReset_rdData (s : State) : (chipReset s).rdData = s.rdData := rfl
@[simp] theorem chipReset_fsm (s : State) : (chipReset s).fsm = s.fsm := rfl
@[simp] theorem chipReset_ctx (s : State) : (chipReset s).ctx = s.ctx := rfl
@[simp] theorem chipReset_cmdw (s : State) : (chipReset s).cmdw = s.cmdw := rfl
@[simp] theorem chipReset_rdres (s : State) : (chipReset s).rdres = s.rdres := rfl
@[simp] theorem chipReset_txres (s : State) : (chipReset s).txres = s.txres := rfl
@[simp] theorem chipReset_status (s : State) : (chipReset s).status = s.status := rfl
@[simp] theorem chipReset_err (s : State) : (chipReset s).err = s.err := rfl
@[simp] theorem chipReset_ownAddr (s : State) : (chipReset s).ownAddr = s.ownAddr := rfl
@[simp] theorem chipReset_xSelf (s : State) : (chipReset s).xSelf = s.xSelf := rfl
@[simp] theorem chipReset_xPeer (s : State) : (chipReset s).xPeer = s.xPeer := rfl
@[simp] theorem chipReset_xMaxRetry (s : State) : (chipReset s).xMaxRetry = s.xMaxRetry := rfl
@[simp] theorem chipReset_xN (s : State) : (chipReset s).xN = s.xN := rfl
@[simp] theorem chipReset_retryCnt (s : State) : (chipReset s).retryCnt = s.retryCnt := rfl
@[simp] theorem chipReset_waitCnt (s : State) : (chipReset s).waitCnt = s.waitCnt := rfl
@[simp] theorem chipReset_rxFlag (s : State) : (chipReset s).rxFlag = s.rxFlag := rfl
@[simp] theorem chipReset_ports (s : State) : (chipReset s).ports = s.ports := rfl
@[simp] theorem chipReset_chip (s : State) : (chipReset s).chip = { s.chip with addr := s.ownAddr, mode := .unknown } := rfl
@[simp] theorem chipReset_cfg (s : State) : (chipReset s).cfg = s.cfg := rfl
@[simp] theorem chipReset_script (s : State) : (chipReset s).script = s.script := rfl
@[simp] theorem chipReset_now (s : State) : (chipReset s).now = s.now := rfl
@[simp] theorem chipReset_trace (s : State) : (chipReset s).trace = s.trace := rfl

@[simp] theorem State.setBuf_payBuf (s : State) (m : Mem) : s.setBuf .pay m = { s with pay := m } := rfl
@[simp] theorem State.setBuf_txBuf (s : State) (m : Mem) : s.setBuf .txbuf m = { s with txbuf := m } := rfl
@[simp] theorem State.setBuf_rxBuf (s : State) (m : Mem) : s.setBuf .rxbuf m = { s with rxbuf := m } := rfl
@[simp] theorem State.buf_payBuf (s : State) : s.buf .pay = s.pay := rfl
@[simp] theorem State.buf_txBuf (s : State) : s.buf .txbuf = s.txbuf := rfl
@[simp] theorem State.buf_rxBuf (s : State) : s.buf .rxbuf = s.rxbuf := rfl

end Sys2Proof.Machine
end

