-- ==== Sys2Proof/Laws/Ops.lean ====
section
/-! SUPPORT. One lemma per shared operation: everything it can do. -/

namespace Sys2Proof.Machine

/-! ## Outcomes -/

@[simp] theorem outcome_ok (s : State) : outcome (.ok s) = .next s := rfl
@[simp] theorem outcome_error (f : Fault) : outcome (.error f) = .fault f := rfl

theorem outcome_eq_next {r : Except Fault State} {t : State} : outcome r = .next t ↔ r = .ok t := by
  cases r <;> simp [outcome]

theorem except_map_eq_ok {α β : Type} {r : Except Fault α} {g : α → β} {b : β} :
    r.map g = .ok b ↔ ∃ a, r = .ok a ∧ g a = b := by
  cases r <;> simp [Except.map]

theorem except_bind_eq_ok {α β : Type} {r : Except Fault α} {g : α → Except Fault β} {b : β} :
    r.bind g = .ok b ↔ ∃ a, r = .ok a ∧ g a = .ok b := by
  cases r <;> simp [Except.bind]

@[simp] theorem except_map_ok {α β : Type} (a : α) (g : α → β) :
    Except.map g (Except.ok a : Except Fault α) = .ok (g a) := rfl

@[simp] theorem except_bind_ok {α β : Type} (a : α) (g : α → Except Fault β) :
    Except.bind (Except.ok a : Except Fault α) g = g a := rfl

/-! ## Buffers -/

theorem memRead_eq_ok {sp : Space} {a n : Nat} {s : State} {bs : List Byte} :
    memRead sp a n s = .ok bs ↔ a + n ≤ sp.size s.cfg ∧ Mem.readBytes (s.buf sp) a n = bs := by
  unfold memRead; split <;> simp [*]

theorem memWrite_eq_ok {sp : Space} {a : Nat} {v : List Byte} {s t : State} :
    memWrite sp a v s = .ok t ↔
      a + v.length ≤ sp.size s.cfg ∧ s.setBuf sp (Mem.writeBytes (s.buf sp) a v) = t := by
  unfold memWrite; split <;> simp [*]

theorem memRead_inside {sp : Space} {a n : Nat} {s : State} (h : a + n ≤ sp.size s.cfg) :
    memRead sp a n s = .ok (Mem.readBytes (s.buf sp) a n) := by simp [memRead, h]

theorem memWrite_inside {sp : Space} {a : Nat} {v : List Byte} {s : State} (h : a + v.length ≤ sp.size s.cfg) :
    memWrite sp a v s = .ok (s.setBuf sp (Mem.writeBytes (s.buf sp) a v)) := by simp [memWrite, h]

@[simp] theorem setBuf_cfg (s : State) (sp : Space) (m : Mem) : (s.setBuf sp m).cfg = s.cfg := by cases sp <;> rfl

theorem byteAt_tx (s : State) (i : Nat) : s.byteAt .txbuf i = Mem.read s.txbuf i := rfl
theorem byteAt_rx (s : State) (i : Nat) : s.byteAt .rxbuf i = Mem.read s.rxbuf i := rfl
theorem byteAt_pay (s : State) (i : Nat) : s.byteAt .pay i = Mem.read s.pay i := rfl

@[simp] theorem size_pay (p : Params) : Space.size p .pay = p.maxLen := rfl
@[simp] theorem size_txbuf (p : Params) : Space.size p .txbuf = p.maxLen + 1 := rfl
@[simp] theorem size_rxbuf (p : Params) : Space.size p .rxbuf = p.maxLen + 3 := rfl

/-! ## The parameters -/

/-- The ranges of R6, one by one. -/
theorem Params.wf_iff {p : Params} : p.wf = true ↔
    1 ≤ p.ackTagLen ∧ 2 + p.ackTagLen ≤ p.maxLen ∧ p.maxLen ≤ 255 ∧ 1 ≤ p.wCnt ∧
      p.ackTimeoutSteps < 2 ^ p.wCnt ∧ p.backoffTicks < 2 ^ p.wCnt ∧ 1 ≤ p.rxFlagDepth := by
  simp only [Params.wf, Bool.and_eq_true, decide_eq_true_eq]; tauto

/-! ## Operand ranges (R191) -/

@[simp] theorem sendDataInRange_iff {p : Params} {n : Byte} : sendDataInRange p n = true ↔ n.toNat ≤ p.maxLen := by
  simp [sendDataInRange]
@[simp] theorem sendPacketInRange_iff {p : Params} {n : Byte} :
    sendPacketInRange p n = true ↔ n.toNat + 2 ≤ p.maxLen := by simp [sendPacketInRange]
@[simp] theorem wrPayInRange_iff {p : Params} {i : Byte} : wrPayInRange p i = true ↔ i.toNat < p.maxLen := by
  simp [wrPayInRange]
@[simp] theorem rdRxInRange_iff {p : Params} {i : Byte} : rdRxInRange p i = true ↔ i.toNat ≤ p.maxLen + 2 := by
  simp [rdRxInRange]

/-! ## Acceptance -/

theorem canAccept_iff {s : State} : s.canAccept = true ↔ s.ports.rst = false ∧ s.status.busy = false := by
  simp [State.canAccept]

theorem begin_accepts {w : CmdWord} {body : State → Except Fault State} {s : State} (h : s.canAccept = true) :
    begin w body s = outcome (body (accept w s)) := by simp [begin, h]

theorem begin_ignores {w : CmdWord} {body : State → Except Fault State} {s : State} (h : s.canAccept = false) :
    begin w body s = .next s := by simp [begin, h]

/-- What an accepting step can do. -/
theorem begin_cases {w : CmdWord} {body : State → Except Fault State} {s t : State}
    (h : begin w body s = .next t) :
    (s.canAccept = false ∧ t = s) ∨ (s.canAccept = true ∧ body (accept w s) = .ok t) := by
  unfold begin at h
  split at h
  · next hc => exact .inr ⟨hc, outcome_eq_next.1 h⟩
  · next hc => exact .inl ⟨by simpa using hc, by simpa using h.symm⟩

theorem requireLink_cases {body : State → Except Fault State} {s t : State} (h : requireLink body s = .ok t) :
    (s.cfg.linkLayer = false ∧ t = raiseError .illegalCmd s) ∨ (s.cfg.linkLayer = true ∧ body s = .ok t) := by
  unfold requireLink at h
  split at h
  · next hc => exact .inr ⟨hc, h⟩
  · next hc => exact .inl ⟨by simpa using hc, by simpa using h.symm⟩

theorem requireReady_cases {body : State → Except Fault State} {s t : State} (h : requireReady body s = .ok t) :
    (s.ports.initOk = false ∧ t = raiseError .notReady s) ∨ (s.ports.initOk = true ∧ body s = .ok t) := by
  unfold requireReady at h
  split at h
  · next hc => exact .inr ⟨hc, h⟩
  · next hc => exact .inl ⟨by simpa using hc, by simpa using h.symm⟩

theorem requireRange_cases {b : Bool} {body : State → Except Fault State} {s t : State}
    (h : requireRange b body s = .ok t) :
    (b = false ∧ t = raiseError .badOperand s) ∨ (b = true ∧ body s = .ok t) := by
  unfold requireRange at h
  split at h
  · next hc => exact .inr ⟨hc, h⟩
  · next hc => exact .inl ⟨by simpa using hc, by simpa using h.symm⟩

theorem requireLink_present {body : State → Except Fault State} {s : State} (h : s.cfg.linkLayer = true) :
    requireLink body s = body s := by simp [requireLink, h]
theorem requireLink_absent {body : State → Except Fault State} {s : State} (h : s.cfg.linkLayer = false) :
    requireLink body s = .ok (raiseError .illegalCmd s) := by simp [requireLink, h]
theorem requireReady_ready {body : State → Except Fault State} {s : State} (h : s.ports.initOk = true) :
    requireReady body s = body s := by simp [requireReady, h]
theorem requireReady_unready {body : State → Except Fault State} {s : State} (h : s.ports.initOk = false) :
    requireReady body s = .ok (raiseError .notReady s) := by simp [requireReady, h]
theorem requireRange_inside {b : Bool} {body : State → Except Fault State} {s : State} (h : b = true) :
    requireRange b body s = body s := by simp [requireRange, h]
theorem requireRange_outside {b : Bool} {body : State → Except Fault State} {s : State} (h : b = false) :
    requireRange b body s = .ok (raiseError .badOperand s) := by simp [requireRange, h]

/-! ## Frames -/

@[simp] theorem length_rawFrame (d : List Byte) : (rawFrame d).length = d.length + 1 := rfl
@[simp] theorem length_addressedFrame (a b : Byte) (d : List Byte) :
    (addressedFrame a b d).length = d.length + 3 := rfl
@[simp] theorem length_ackFrame (p : Params) (a b : Byte) : (ackFrame p a b).length = p.ackTagLen + 3 := rfl

/-- `BuildRaw(n)` where it is defined (R90). -/
theorem buildRaw_inside {n : Byte} {s : State} (h : n.toNat ≤ s.cfg.maxLen) :
    buildRaw n s = .ok { s with
      txbuf := Mem.writeBytes s.txbuf 0 (rawFrame (Mem.readBytes s.pay 0 n.toNat)) } := by
  rw [buildRaw, memRead_inside (by simpa using h), except_bind_ok, memWrite_inside (by simp; omega)]
  rfl

/-- `BuildAddressed(self, dest, n)` where it is defined (R91). -/
theorem buildAddressed_inside {self dest n : Byte} {s : State} (h : n.toNat + 2 ≤ s.cfg.maxLen) :
    buildAddressed self dest n s = .ok { s with
      txbuf := Mem.writeBytes s.txbuf 0 (addressedFrame dest self (Mem.readBytes s.pay 0 n.toNat)) } := by
  rw [buildAddressed, memRead_inside (by simp; omega), except_bind_ok, memWrite_inside (by simp; omega)]
  rfl

/-- `BuildAck(self, peer)` with admitted parameters (R92). -/
theorem buildAck_inside {self peer : Byte} {s : State} (h : s.cfg.wf = true) :
    buildAck self peer s = .ok { s with
      txbuf := Mem.writeBytes s.txbuf 0 (ackFrame s.cfg peer self) } := by
  have := (Params.wf_iff.1 h).2.1
  rw [buildAck, memWrite_inside (by simp; omega)]
  rfl

/-- What `BuildRaw` can do when it answers. -/
theorem buildRaw_eq_ok {n : Byte} {s t : State} (h : buildRaw n s = .ok t) :
    n.toNat ≤ s.cfg.maxLen ∧
      t = { s with txbuf := Mem.writeBytes s.txbuf 0 (rawFrame (Mem.readBytes s.pay 0 n.toNat)) } := by
  obtain ⟨d, hd, -⟩ := except_bind_eq_ok.1 h
  have hn : n.toNat ≤ s.cfg.maxLen := by simpa using (memRead_eq_ok.1 hd).1
  rw [buildRaw_inside hn] at h
  exact ⟨hn, by simpa using h.symm⟩

/-- What `BuildAddressed` can do when it answers. -/
theorem buildAddressed_eq_ok {self dest n : Byte} {s t : State} (h : buildAddressed self dest n s = .ok t) :
    n.toNat + 2 ≤ s.cfg.maxLen ∧
      t = { s with
        txbuf := Mem.writeBytes s.txbuf 0 (addressedFrame dest self (Mem.readBytes s.pay 0 n.toNat)) } := by
  obtain ⟨d, hd, hw⟩ := except_bind_eq_ok.1 h
  obtain ⟨-, rfl⟩ := memRead_eq_ok.1 hd
  have hn : n.toNat + 2 ≤ s.cfg.maxLen := by have := (memWrite_eq_ok.1 hw).1; simp at this; omega
  rw [buildAddressed_inside hn] at h
  exact ⟨hn, by simpa using h.symm⟩

/-- What `BuildAck` can do when it answers. -/
theorem buildAck_eq_ok {self peer : Byte} {s t : State} (h : buildAck self peer s = .ok t) :
    s.cfg.ackTagLen + 2 ≤ s.cfg.maxLen ∧
      t = { s with txbuf := Mem.writeBytes s.txbuf 0 (ackFrame s.cfg peer self) } := by
  obtain ⟨hl, rfl⟩ := memWrite_eq_ok.1 h
  exact ⟨by simp at hl; omega, rfl⟩

/-! ## The radio agent -/

@[simp] theorem length_popBytes (now k : Nat) (c : Chip) : (c.popBytes now k).length = k := by
  simp [Chip.popBytes]; omega

/-- A pop inside the content gives the content (R44). -/
theorem popBytes_inside {now k : Nat} {c : Chip} (h : k ≤ c.rxFifo.length) : c.popBytes now k = c.rxFifo.take k := by
  simp [Chip.popBytes, Nat.sub_eq_zero_of_le h]

/-- Every request can time out, and then nothing is known of the chip (R51, U6). -/
@[simp] theorem respond_busTimeout (now : Nat) (q : Request) (c : Chip) :
    c.respond now q .busTimeout = some (.busTimeout, Config.freeChip now) := rfl

end Sys2Proof.Machine
end

