-- ==== Sys2Proof/Laws/Exec.lean ====
section
/-! SUPPORT. The dispatch and the step, unfolded once: which meaning an instruction calls, what each event does, and
when a poll follows. -/

namespace Sys2Proof.Machine

@[simp] theorem exec_sendData (n u) (s : State) : exec (.sendData n u) s = execSendData n u s := rfl
@[simp] theorem exec_sendPacket (a b c n) (s : State) : exec (.sendPacket a b c n) s = execSendPacket a b c n s := rfl
@[simp] theorem exec_sendAck (a b u) (s : State) : exec (.sendAck a b u) s = execSendAck a b u s := rfl
@[simp] theorem exec_recvData (u) (s : State) : exec (.recvData u) s = execRecvData u s := rfl
@[simp] theorem exec_recvHandle (a b u) (s : State) : exec (.recvHandle a b u) s = execRecvHandle a b u s := rfl
@[simp] theorem exec_pktAvail (u) (s : State) : exec (.pktAvail u) s = execPktAvail u s := rfl
@[simp] theorem exec_setAddr (a u) (s : State) : exec (.setAddr a u) s = execSetAddr a u s := rfl
@[simp] theorem exec_wrPay (i v u) (s : State) : exec (.wrPay i v u) s = execWrPay i v u s := rfl
@[simp] theorem exec_rdRx (i u) (s : State) : exec (.rdRx i u) s = execRdRx i u s := rfl
@[simp] theorem exec_illegal (w) (s : State) : exec (.illegal w) s = execIllegal w s := rfl
@[simp] theorem exec_frameRaw (d) (s : State) : exec (.frameRaw d) s = execFrameRaw d s := rfl
@[simp] theorem exec_frameAddressed (a b d) (s : State) :
    exec (.frameAddressed a b d) s = execFrameAddressed a b d s := rfl
@[simp] theorem exec_frameAck (a b) (s : State) : exec (.frameAck a b) s = execFrameAck a b s := rfl
@[simp] theorem exec_record (p r l) (s : State) : exec (.record p r l) s = execRecord p r l s := rfl
@[simp] theorem exec_rxStatusByte (o c) (s : State) : exec (.rxStatusByte o c) s = execRxStatusByte o c s := rfl

@[simp] theorem nextEvent_cons (s : State) {e : Event} {es : List Event} (h : s.script = e :: es) :
    s.nextEvent = e := by simp [State.nextEvent, h]

theorem react_code {s : State} {c : Code} {i : Instr} (h : s.nextEvent = .code c) (hd : decode s.cfg c = .ok i) :
    react s = exec i s.advance := by simp [react, h, hd]
theorem react_undecoded {s : State} {c : Code} {e : DecodeError} (h : s.nextEvent = .code c)
    (hd : decode s.cfg c = .error e) : react s = .next (dropUndecoded s.advance) := by simp [react, h, hd]
theorem react_answer {s : State} {r : Reply} (h : s.nextEvent = .answer r) :
    react s = outcome (onAnswer r s.advance) := by simp [react, h]
theorem react_poll {s : State} (h : s.nextEvent = .poll) : react s = .next s.advance := by simp [react, h]
theorem react_tick {s : State} (h : s.nextEvent = .tick) : react s = outcome (onTick s.advance) := by simp [react, h]
theorem react_rst {s : State} {b : Bool} (h : s.nextEvent = .rst b) : react s = .next (setRst b s.advance) := by
  simp [react, h]
theorem react_initOk {s : State} {b : Bool} (h : s.nextEvent = .initOk b) :
    react s = .next (setInitOk b s.advance) := by simp [react, h]
theorem react_dataReady {s : State} {b : Bool} (h : s.nextEvent = .dataReady b) :
    react s = .next (setDataReady b s.advance) := by simp [react, h]
theorem react_rxArrive {s : State} {bs : List Byte} {o : Bool} (h : s.nextEvent = .rxArrive bs o) :
    react s = .next (rxArrive bs o s.advance) := by simp [react, h]
theorem react_chipReset {s : State} (h : s.nextEvent = .chipReset) : react s = .next (chipReset s.advance) := by
  simp [react, h]

/-- A step is the effect of its event, and then the poll if the block stood in `S_ACK_POLL`. -/
theorem step_eq_next {s t : State} : step s = .next t ↔ ∃ u, react s = .next u ∧ t = s.thenPoll u := by
  unfold step State.settle
  cases react s <;> simp [eq_comm]

theorem step_of_react {s u : State} (h : react s = .next u) : step s = .next (s.thenPoll u) := by
  simp [step, State.settle, h]

@[simp] theorem settle_next (s t : State) : s.settle (.next t) = .next (s.thenPoll t) := rfl

/-- Outside `S_ACK_POLL` the step is the event's effect alone. -/
theorem thenPoll_other {s t : State} (h : s.fsm ≠ .ackPoll) : s.thenPoll t = t := by simp [State.thenPoll, h]

theorem settle_other {s : State} {o : Host.Outcome State Fault Refusal} (h : s.fsm ≠ .ackPoll) : s.settle o = o := by
  cases o <;> simp [State.settle, thenPoll_other h]

theorem step_other {s : State} (h : s.fsm ≠ .ackPoll) : step s = react s := settle_other h

/-- A command presented while the block cannot accept it does nothing (42_system.md R155). -/
theorem exec_decodeWord_ignores {link : Bool} {w : CmdWord} {s : State} (h : s.canAccept = false) :
    exec (decodeWord link w) s = .next s := by
  unfold decodeWord
  repeat' split
  all_goals first | exact begin_ignores h | simp [execPktAvail, execIllegal, begin_ignores h]

/-- What the event of a step can do. -/
theorem react_cases {s t : State} (h : react s = .next t) :
    (∃ c i, s.nextEvent = .code c ∧ decode s.cfg c = .ok i ∧ exec i s.advance = .next t) ∨
    (∃ c e, s.nextEvent = .code c ∧ decode s.cfg c = .error e ∧ t = dropUndecoded s.advance) ∨
    (∃ r, s.nextEvent = .answer r ∧ onAnswer r s.advance = .ok t) ∨
    (s.nextEvent = .poll ∧ t = s.advance) ∨
    (s.nextEvent = .tick ∧ onTick s.advance = .ok t) ∨
    (∃ b, s.nextEvent = .rst b ∧ t = setRst b s.advance) ∨
    (∃ b, s.nextEvent = .initOk b ∧ t = setInitOk b s.advance) ∨
    (∃ b, s.nextEvent = .dataReady b ∧ t = setDataReady b s.advance) ∨
    (∃ bs o, s.nextEvent = .rxArrive bs o ∧ t = rxArrive bs o s.advance) ∨
    (s.nextEvent = .chipReset ∧ t = chipReset s.advance) := by
  cases he : s.nextEvent with
  | code c =>
    cases hd : decode s.cfg c with
    | ok i => rw [react_code he hd] at h; exact .inl ⟨c, i, rfl, hd, h⟩
    | error e => rw [react_undecoded he hd] at h; exact .inr (.inl ⟨c, e, rfl, hd, by simpa using h.symm⟩)
  | answer r => rw [react_answer he, outcome_eq_next] at h; simp [h]
  | poll => rw [react_poll he] at h; cases h; simp
  | tick => rw [react_tick he, outcome_eq_next] at h; simp [h]
  | rst b => rw [react_rst he] at h; cases h; simp
  | initOk b => rw [react_initOk he] at h; cases h; simp
  | dataReady b => rw [react_dataReady he] at h; cases h; simp
  | rxArrive bs o =>
    rw [react_rxArrive he] at h
    cases h
    simp only [reduceCtorEq, Event.rxArrive.injEq]
    iterate 8 right
    exact .inl ⟨bs, o, ⟨rfl, rfl⟩, rfl⟩
  | chipReset => rw [react_chipReset he] at h; cases h; simp

/-- One more step of a run. -/
theorem run_succ (k : Nat) (s t : State) (h : step s = .next t) :
    Host.Core.run core (k + 1) s = Host.Core.run core k t := by
  have hs : core.step s = .next t := h
  simp only [Host.Core.run, hs]

theorem run_zero (s : State) : Host.Core.run core 0 s = .next s := rfl

end Sys2Proof.Machine
end

