-- ==== Sys2Proof/Laws/Invariant.lean ====
section
/-! SUPPORT. The invariant of the machine as a test that can be run, for the witnesses in Tests. -/

namespace Sys2Proof.Machine

/-- `State.Inv` field by field. -/
def State.invCheck (s : State) : Bool :=
  s.cfg.wf &&
  (Mem.wf s.pay && Mem.within (Space.size s.cfg .pay) s.pay) &&
  (Mem.wf s.txbuf && Mem.within (Space.size s.cfg .txbuf) s.txbuf) &&
  (Mem.wf s.rxbuf && Mem.within (Space.size s.cfg .rxbuf) s.rxbuf) &&
  pairReached s.fsm s.ctx &&
  decide (s.status.busy = true ↔ s.fsm ≠ .idle) &&
  decide (s.status.busy = true →
    s.status.done = false ∧ s.status.ok = false ∧ s.status.rxcode = .ack ∧ s.err.code = .none) &&
  decide (s.ports.rst = true → s.fsm = .idle) &&
  (match s.ctx.opcode with
    | none => true
    | some op => decide (cwOp s.cmdw = op) && opAssigned s.cfg.linkLayer op) &&
  decide (s.fsm = .txLoad → (s.byteAt .txbuf 0).toNat ≤ s.cfg.maxLen) &&
  decide (s.fsm = .rdBody → 1 ≤ (s.byteAt .rxbuf 0).toNat ∧ (s.byteAt .rxbuf 0).toNat ≤ s.cfg.maxLen) &&
  decide (s.fsm = .rdTrailer → (s.byteAt .rxbuf 0).toNat ≤ s.cfg.maxLen) &&
  decide (s.fsm = .rdFlush → s.rdres = .overflow ∨ s.rdres = .oversize) &&
  decide (s.fsm = .rdRxgo → s.rdres = .overflow ∨ s.rdres = .oversize ∨ (s.rdres = .badAck ∧ s.ctx = .sendPacket)) &&
  decide (s.ctx = .sendPacket → s.xN.toNat + 2 ≤ s.cfg.maxLen) &&
  decide (s.ctx = .sendPacket → s.retryCnt.toNat < s.budget) &&
  decide (s.waitCnt ≤ max s.cfg.ackTimeoutSteps s.cfg.backoffTicks) &&
  decide (s.fsm = .ackPoll ∨ s.fsm = .ackTick → s.waitCnt < s.cfg.ackTimeoutSteps) &&
  decide (s.fsm = .backoff → s.waitCnt < s.cfg.backoffTicks) &&
  decide (s.rxFlag ≤ s.cfg.rxFlagDepth)

/-- A state that passes the test meets the invariant. -/
theorem State.inv_of_check {s : State} (h : s.invCheck = true) : s.Inv := by
  simp only [State.invCheck, Bool.and_eq_true, decide_eq_true_eq, and_assoc] at h
  obtain ⟨h1, h2, h2', h3, h3', h4, h4', h5, h6, h7, h8, h9, h10, h11, h12, h13, h14, h15, h16, h17, h18, h19, h20⟩ := h
  refine ⟨h1, ⟨h2, h2'⟩, ⟨h3, h3'⟩, ⟨h4, h4'⟩, h5, h6, h7, h8, ?_, h10, h11, h12, h13, h14, h15, h16, h17, h18, h19, h20⟩
  intro op hop
  rw [hop] at h9
  simpa using h9

end Sys2Proof.Machine
end

