-- ==== Sys2Proof/Laws/PerInstr.lean ====
section
/-! SUPPORT. One fact per instruction as syntax: on which port its bits stand, and its opcode (30_encoding.md R66,
R71, R72). -/

namespace Sys2Proof.Laws.WireForm

/-- A well-formed command stands on the command port under the opcode of R71, an illegal one under an unassigned
opcode (R72), and every other row stands on the radio's side, where there is no opcode. -/
def Statement (i : Instr) : Prop :=
  ∀ p : Params, i.wf p = true →
    match encode p i with
    | .word w => i.opcode = if opAssigned p.linkLayer (cwOp w) then some (cwOp w) else none
    | .status _ => i.opcode = none
    | .bytes _ _ => i.opcode = none

theorem sendData (n : Byte) (u : BitVec 24) : Statement (.sendData n u) := by
  intro p _; simp [encode, Instr.opcode, opAssigned]

theorem sendPacket (self dest retries n : Byte) : Statement (.sendPacket self dest retries n) := by
  intro p h; simp_all [encode, Instr.opcode, opAssigned, Instr.wf]

theorem sendAck (self peer : Byte) (u : BitVec 16) : Statement (.sendAck self peer u) := by
  intro p h; simp_all [encode, Instr.opcode, opAssigned, Instr.wf]

theorem recvData (u : BitVec 32) : Statement (.recvData u) := by
  intro p _; simp [encode, Instr.opcode, opAssigned]

theorem recvHandle (self peer : Byte) (u : BitVec 16) : Statement (.recvHandle self peer u) := by
  intro p h; simp_all [encode, Instr.opcode, opAssigned, Instr.wf]

theorem pktAvail (u : BitVec 32) : Statement (.pktAvail u) := by
  intro p _; simp [encode, Instr.opcode, opAssigned]

theorem setAddr (addr : Byte) (u : BitVec 24) : Statement (.setAddr addr u) := by
  intro p _; simp [encode, Instr.opcode, opAssigned]

theorem wrPay (idx val : Byte) (u : BitVec 16) : Statement (.wrPay idx val u) := by
  intro p _; simp [encode, Instr.opcode, opAssigned]

theorem rdRx (idx : Byte) (u : BitVec 24) : Statement (.rdRx idx u) := by
  intro p _; simp [encode, Instr.opcode, opAssigned]

theorem illegal (w : CmdWord) : Statement (.illegal w) := by
  intro p h
  have hw : opAssigned p.linkLayer (cwOp w) = false := by simpa [Instr.wf, cwOp] using h
  simp [encode, Instr.opcode, hw]

theorem frameRaw (data : List Byte) : Statement (.frameRaw data) := fun _ _ => rfl

theorem frameAddressed (dest src : Byte) (data : List Byte) : Statement (.frameAddressed dest src data) :=
  fun _ _ => rfl

theorem frameAck (dest src : Byte) : Statement (.frameAck dest src) := fun _ _ => rfl

theorem record (payload : List Byte) (rssi lqi : Byte) : Statement (.record payload rssi lqi) := fun _ _ => rfl

theorem rxStatusByte (ovf : Bool) (cnt : BitVec 7) : Statement (.rxStatusByte ovf cnt) := fun _ _ => rfl

end Sys2Proof.Laws.WireForm
end

