-- ==== Sys2Proof/Laws/Sequencer.lean ====
section
/-! SUPPORT. One lemma per part of the sequencer: everything it can do when it answers (43_sequencer.md R166). -/

namespace Sys2Proof.Machine

/-- What `startAttempt` can do (41_link.md R123 step 1). -/
theorem startAttempt_eq_ok {s t : State} (h : startAttempt s = .ok t) :
    s.xN.toNat + 2 ≤ s.cfg.maxLen ∧
      t = { s with
        txbuf := Mem.writeBytes s.txbuf 0 (addressedFrame s.xPeer s.xSelf (Mem.readBytes s.pay 0 s.xN.toNat))
        fsm := .txLoad } := by
  obtain ⟨u, hu, rfl⟩ := except_map_eq_ok.1 h
  obtain ⟨hn, rfl⟩ := buildAddressed_eq_ok hu
  exact ⟨hn, rfl⟩

/-- What `RETRY` can do (41_link.md R125): wait a backoff, start the next attempt at once, or give up. -/
theorem retry_cases {s t : State} (h : retry s = .ok t) :
    ((s.retryCnt + 1).toNat < s.xMaxRetry.toNat ∧ s.cfg.backoffTicks ≠ 0 ∧
      t = { s with retryCnt := s.retryCnt + 1, waitCnt := 0, fsm := .backoff }) ∨
    ((s.retryCnt + 1).toNat < s.xMaxRetry.toNat ∧ s.cfg.backoffTicks = 0 ∧
      startAttempt { s with retryCnt := s.retryCnt + 1, waitCnt := 0 } = .ok t) ∨
    (s.xMaxRetry.toNat ≤ (s.retryCnt + 1).toNat ∧
      t = raiseError .retries { s with retryCnt := s.retryCnt + 1 }) := by
  unfold retry at h
  split at h
  · split at h
    · next h1 h2 => exact .inr (.inl ⟨h1, h2, h⟩)
    · next h1 h2 => exact .inl ⟨h1, h2, by simpa using h.symm⟩
  · next h1 => exact .inr (.inr ⟨by omega, by simpa using h.symm⟩)

/-- The trailer of a record inside the buffer. -/
theorem takeTrailer_inside {s : State} (h : (s.byteAt .rxbuf 0).toNat ≤ s.cfg.maxLen) :
    takeTrailer s = .ok { s with
      rRssiRaw := s.byteAt .rxbuf ((s.byteAt .rxbuf 0).toNat + 1)
      rLqiRaw := s.byteAt .rxbuf ((s.byteAt .rxbuf 0).toNat + 2) } := by
  rw [takeTrailer, memRead_inside (by simp; omega)]; rfl

/-- The auto-reply with admitted parameters (41_link.md R128). -/
theorem autoAck_inside {s : State} (h : s.cfg.wf = true) :
    autoAck s = .ok { s with
      txbuf := Mem.writeBytes s.txbuf 0 (ackFrame s.cfg (s.byteAt .rxbuf 2) (s.byteAt .rxbuf 1))
      ctx := .autoAck
      fsm := .txLoad } := by rw [autoAck, buildAck_inside h]; rfl

/-- What a reply of the radio agent can do: nothing, or the outstanding request is answered and its row taken. -/
theorem onAnswer_cases {r : Reply} {s t : State} (h : onAnswer r s = .ok t) :
    t = s ∨ ∃ q resp chip, s.ports.rst = false ∧ currentRequest s = .ok (some q) ∧
      s.chip.respond s.now q r = some (resp, chip) ∧
      onResponse resp ({ s with chip := chip }.log (.request q resp)) = .ok t := by
  unfold onAnswer at h
  split at h
  · exact .inl (by simpa using h.symm)
  · next hr =>
    obtain ⟨q?, hq, h⟩ := except_bind_eq_ok.1 h
    cases q? with
    | none => exact .inl (by simpa using h.symm)
    | some q =>
      simp only at h
      split at h
      · exact .inl (by simpa using h.symm)
      · next resp chip hc => exact .inr ⟨q, resp, chip, by simpa using hr, hq, hc, h⟩

/-- A reply that the radio agent can give moves the block by its row. -/
theorem onAnswer_row {r : Reply} {s : State} {q : Request} {resp : Response} {chip : Chip}
    (hr : s.ports.rst = false) (hq : currentRequest s = .ok (some q))
    (hc : s.chip.respond s.now q r = some (resp, chip)) :
    onAnswer r s = onResponse resp ({ s with chip := chip }.log (.request q resp)) := by
  simp [onAnswer, hr, hq, hc]

/-- What a tick can do (rows 20, 21, 32, 33; R169). -/
theorem onTick_cases {s t : State} (h : onTick s = .ok t) :
    ((s.ports.rst = true ∨ (s.fsm ≠ .ackTick ∧ s.fsm ≠ .backoff)) ∧ t = s) ∨
    (s.ports.rst = false ∧ s.fsm = .ackTick ∧ s.waitCnt + 1 < s.cfg.ackTimeoutSteps ∧
      t = { s.log .tick with waitCnt := s.waitCnt + 1, fsm := .ackPoll }) ∨
    (s.ports.rst = false ∧ s.fsm = .ackTick ∧ s.cfg.ackTimeoutSteps ≤ s.waitCnt + 1 ∧
      failAttempt .ackTimeout { s.log .tick with waitCnt := s.waitCnt + 1 } = .ok t) ∨
    (s.ports.rst = false ∧ s.fsm = .backoff ∧ s.waitCnt + 1 < s.cfg.backoffTicks ∧
      t = { s.log .tick with waitCnt := s.waitCnt + 1 }) ∨
    (s.ports.rst = false ∧ s.fsm = .backoff ∧ s.cfg.backoffTicks ≤ s.waitCnt + 1 ∧
      startAttempt { s.log .tick with waitCnt := s.waitCnt + 1 } = .ok t) := by
  unfold onTick at h
  split at h
  · next hr => exact .inl ⟨.inl hr, by simpa using h.symm⟩
  · next hr =>
    have hr : s.ports.rst = false := by simpa using hr
    split at h
    · next hf =>
      split at h
      · next hl => exact .inr (.inl ⟨hr, hf, hl, by simpa using h.symm⟩)
      · next hl => exact .inr (.inr (.inl ⟨hr, hf, by omega, h⟩))
    · next hf =>
      split at h
      · next hl => exact .inr (.inr (.inr (.inl ⟨hr, hf, hl, by simpa using h.symm⟩)))
      · next hl => exact .inr (.inr (.inr (.inr ⟨hr, hf, by omega, h⟩)))
    · next hf hg => exact .inl ⟨.inr ⟨hf, hg⟩, by simpa using h.symm⟩

/-- What `Poll()` takes (42_system.md R151): at most one count of `RX_FLAG`, and nothing else. -/
theorem pollTake_eq (s : State) : pollTake s = { s with rxFlag := (pollTake s).rxFlag } := by
  unfold pollTake; split <;> rfl

theorem pollTake_rxFlag_le (s : State) : (pollTake s).rxFlag ≤ s.rxFlag := by
  unfold pollTake; split <;> simp

/-- The `Poll()` of the ACK wait (rows 18, 19). -/
theorem onPoll_ackPoll {s : State} (hr : s.ports.rst = false) (hf : s.fsm = .ackPoll) :
    onPoll s = { s with
      rxFlag := (pollTake s).rxFlag
      trace := s.trace ++ [.poll (pollReady s)]
      fsm := if pollReady s then .rdStatus else .ackTick } := by
  simp only [onPoll, hr, hf, poll]
  rw [pollTake_eq]
  rfl

/-- In every other state the block polls nothing. -/
theorem onPoll_other {s : State} (h : s.ports.rst = true ∨ s.fsm ≠ .ackPoll) : onPoll s = s := by
  unfold onPoll
  split
  · rfl
  · next hr => split
               · next hf => rcases h with h | h <;> simp_all
               · rfl

/-- What the poll of a step changes, if it is taken at all: `FSM`, a count of `RX_FLAG`, and a line of the trace. -/
theorem thenPoll_eq (s t : State) :
    s.thenPoll t = { t with fsm := (s.thenPoll t).fsm, rxFlag := (s.thenPoll t).rxFlag, trace := (s.thenPoll t).trace } := by
  unfold State.thenPoll
  split
  · by_cases h : t.ports.rst = true ∨ t.fsm ≠ .ackPoll
    · rw [onPoll_other h]
    · simp only [ne_eq, not_or, Bool.not_eq_true, not_not] at h
      rw [onPoll_ackPoll h.1 h.2]
  · rfl

/-- In `S_ACK_POLL` the poll is taken, whatever event has led to `t`, unless that was `rst` (R170). -/
theorem thenPoll_ackPoll {s t : State} (hs : s.fsm = .ackPoll) (hr : t.ports.rst = false) (hf : t.fsm = .ackPoll) :
    s.thenPoll t = { t with
      rxFlag := (pollTake t).rxFlag
      trace := t.trace ++ [.poll (pollReady t)]
      fsm := if pollReady t then .rdStatus else .ackTick } := by
  rw [State.thenPoll, if_pos hs, onPoll_ackPoll hr hf]

/-- No poll follows an event that has left `S_ACK_POLL`, or under `rst`. -/
theorem thenPoll_left {s t : State} (h : t.ports.rst = true ∨ t.fsm ≠ .ackPoll) : s.thenPoll t = t := by
  unfold State.thenPoll
  split
  · exact onPoll_other h
  · rfl

end Sys2Proof.Machine
end

