-- ==== Sys2Proof/Tests/Slice0.lean ====
section
/-! SUPPORT. Tests: the well-formedness smoke test, the decoder on words written out from 30_encoding.md, the vectors
V1 to V76 of 95_test_vectors.md that concern one step, and for every statement with hypotheses a state that meets
them. Expected results are those of 95_test_vectors.md or follow by hand from the rule named. -/

namespace Sys2Proof.Tests

open Sys2Proof.Machine

/-- The parameters of 95_test_vectors.md, with `ACK_TIMEOUT_STEPS` = 2 and `BACKOFF_TICKS` = 1 as in P3. -/
def tp : Params where
  linkLayer := true
  maxLen := 61
  broadcastAddr := 0x00#8
  ackTag := [0x41#8, 0x63#8]
  ackTimeoutSteps := 2
  backoffTicks := 1
  rssiOffset := 74#8
  rxSignalMode := .edge
  rxFlagDepth := 1
  wCnt := 16

/-- The reset state with these parameters and `init_ok` = 1. -/
def ts : State := { State.reset with cfg := tp, ports := { rst := false, initOk := true, dataReady := false } }

/-- `ts` with a command in progress. -/
def tb (w : CmdWord) (c : Ctx) (f : Fsm) : State :=
  { ts with cmdw := w, ctx := c, fsm := f, status := { busy := true, done := false, ok := false, rxcode := .ack } }

/-- The state after an instruction that completes. -/
def after (i : Instr) (s : State) : State :=
  match exec i s with
  | .next t => t
  | _ => s

/-- The state after one event. -/
def afterEvent (e : Event) (s : State) : State :=
  match step { s with script := [e] } with
  | .next t => t
  | _ => s

/-! ## Well-formedness -/

theorem test_params_wf : tp.wf = true := by decide

/-- Each check of `Params.wf` refuses its own ill-formed parameters (R6). -/
theorem test_params_ill_formed :
    ({ tp with ackTag := [] } : Params).wf = false ∧
    ({ tp with maxLen := 3 } : Params).wf = false ∧
    ({ tp with maxLen := 256 } : Params).wf = false ∧
    ({ tp with wCnt := 0, ackTimeoutSteps := 0, backoffTicks := 0 } : Params).wf = false ∧
    ({ tp with ackTimeoutSteps := 65536 } : Params).wf = false ∧
    ({ tp with backoffTicks := 65536 } : Params).wf = false ∧
    ({ tp with rxFlagDepth := 0 } : Params).wf = false := by decide

/-- Each check of `Instr.wf` refuses its own ill-formed term (R61 to R64, R71, R72). -/
theorem test_instr_ill_formed :
    Instr.wf { tp with linkLayer := false } (.sendPacket 1#8 3#8 3#8 2#8) = false ∧
    Instr.wf { tp with linkLayer := false } (.sendAck 3#8 1#8 0#16) = false ∧
    Instr.wf { tp with linkLayer := false } (.recvHandle 3#8 1#8 0#16) = false ∧
    Instr.wf tp (.illegal 0x0100000003#40) = false ∧
    Instr.wf tp (.frameRaw (List.replicate 62 0x00#8)) = false ∧
    Instr.wf tp (.frameAddressed 3#8 1#8 (List.replicate 60 0x00#8)) = false ∧
    Instr.wf { tp with maxLen := 3 } (.frameAck 3#8 1#8) = false := by decide

/-- R64: a record's length is a byte. -/
theorem test_record_ill_formed : Instr.wf tp (.record (List.replicate 256 0x00#8) 0x00#8 0x00#8) = false := by
  rw [show Instr.wf tp (.record (List.replicate 256 0x00#8) 0x00#8 0x00#8) =
    decide ((List.replicate 256 (0x00#8 : Byte)).length ≤ 255) from rfl, List.length_replicate]
  rfl

/-! ## Decoding, one word or byte string per constructor -/

/-- V40 to V43. -/
theorem test_decode_send :
    decodeWord true 0x0100000003#40 = .sendData 3#8 0#24 ∧
    decodeWord true 0x0201030302#40 = .sendPacket 0x01#8 0x03#8 3#8 2#8 ∧
    decodeWord true 0x0303010000#40 = .sendAck 0x03#8 0x01#8 0#16 ∧
    decodeWord true 0x0400000000#40 = .recvData 0#32 := by decide

/-- V44 to V48. -/
theorem test_decode_receive_and_system :
    decodeWord true 0x0503010000#40 = .recvHandle 0x03#8 0x01#8 0#16 ∧
    decodeWord true 0x0600000000#40 = .pktAvail 0#32 ∧
    decodeWord true 0x0703000000#40 = .setAddr 0x03#8 0#24 ∧
    decodeWord true 0x0801690000#40 = .wrPay 1#8 0x69#8 0#16 ∧
    decodeWord true 0x0904000000#40 = .rdRx 4#8 0#24 := by decide

/-- V49, V75, and the two words after V49 whose unused fields are not zero. -/
theorem test_decode_illegal_and_unused :
    decodeWord true 0x0000000000#40 = .illegal 0x0000000000#40 ∧
    decodeWord true 0x0A00000000#40 = .illegal 0x0A00000000#40 ∧
    decodeWord true 0xFF12345678#40 = .illegal 0xFF12345678#40 ∧
    decodeWord false 0x0201030302#40 = .illegal 0x0201030302#40 ∧
    decodeWord false 0x0303010000#40 = .illegal 0x0303010000#40 ∧
    decodeWord false 0x0503010000#40 = .illegal 0x0503010000#40 ∧
    decodeWord true 0x04FFFFFFFF#40 = .recvData 0xFFFFFFFF#32 ∧
    decodeWord true 0x0612345678#40 = .pktAvail 0x12345678#32 := by decide

/-- R61 to R64 and R66 on the bytes of V20, V22, V26, S3 and P5. -/
theorem test_decode_bytes :
    decode tp (.bytes .raw [0x03#8, 0x61#8, 0x62#8, 0x63#8]) = .ok (.frameRaw [0x61#8, 0x62#8, 0x63#8]) ∧
    decode tp (.bytes .addressed [0x04#8, 0x03#8, 0x01#8, 0x48#8, 0x69#8]) =
      .ok (.frameAddressed 0x03#8 0x01#8 [0x48#8, 0x69#8]) ∧
    decode tp (.bytes .ack [0x04#8, 0x01#8, 0x03#8, 0x41#8, 0x63#8]) = .ok (.frameAck 0x01#8 0x03#8) ∧
    decode tp (.bytes .record [0x03#8, 0x61#8, 0x62#8, 0x63#8, 0x00#8, 0x00#8]) =
      .ok (.record [0x61#8, 0x62#8, 0x63#8] 0x00#8 0x00#8) ∧
    decode tp (.status 0xC0#8) = .ok (.rxStatusByte true 0x40#7) := by decide

/-- Byte strings that are no frame or record of their format (R60, R62 to R64), each rejected by its name. -/
theorem test_decode_rejects :
    decode tp (.bytes .raw []) = .error .noLengthByte ∧
    decode tp (.bytes .raw [0x02#8, 0x61#8]) = .error .lengthMismatch ∧
    decode tp (.bytes .raw (0x3E#8 :: List.replicate 62 0x00#8)) = .error .overMaxLen ∧
    decode tp (.bytes .addressed [0x01#8, 0x03#8]) = .error .noAddresses ∧
    decode tp (.bytes .ack [0x04#8, 0x01#8, 0x03#8, 0x41#8, 0x62#8]) = .error .notTheTag ∧
    decode tp (.bytes .record [0x03#8, 0x61#8, 0x62#8, 0x63#8, 0x00#8]) = .error .lengthMismatch := by decide

/-- The encoder on V41, V47 and V26. -/
theorem test_encode :
    encode tp (.sendPacket 0x01#8 0x03#8 3#8 2#8) = .word 0x0201030302#40 ∧
    encode tp (.wrPay 1#8 0x69#8 0#16) = .word 0x0801690000#40 ∧
    encode tp (.frameAck 0x01#8 0x03#8) = .bytes .ack [0x04#8, 0x01#8, 0x03#8, 0x41#8, 0x63#8] := by decide

/-- A row of the table as the host numbers its bits: 40 bits a command word, 8 bits an `RX_STATUS` byte, 32 bits a
frame with its length byte in bits 7:0. -/
theorem test_table_words :
    decodeTableWord 40 0x0100000003 = some (.sendData 3#8 0#24) ∧
    decodeTableWord 8 0xC0 = some (.rxStatusByte true 0x40#7) ∧
    decodeTableWord 32 0x63626103 = some (.frameRaw [0x61#8, 0x62#8, 0x63#8]) := by decide

/-! ## Computed values -/

/-- V1 to V13. -/
theorem test_rssi :
    [0x00#8, 0x01#8, 0x02#8, 0x3C#8, 0x64#8, 0x7E#8, 0x7F#8, 0x80#8, 0x81#8, 0x82#8, 0xC8#8, 0xFE#8, 0xFF#8].map
      (fun r => rssiToDbm r 74#8) =
    [-74, -74, -73, -44, -24, -11, -11, -138, -137, -137, -102, -75, -74] := by decide

/-- The line after V13: offset 0. -/
theorem test_rssi_offset_zero :
    rssiToDbm 0xFF#8 0#8 = 0 ∧ rssiToDbm 0x80#8 0#8 = -64 ∧ rssiToDbm 0x7F#8 0#8 = 63 := by decide

/-- V14 to V18. -/
theorem test_lqi_crc :
    [0x00#8, 0x7F#8, 0x80#8, 0xB0#8, 0xFF#8].map (fun b => (crcOk b, (lqiConvert b).toNat)) =
    [(false, 0), (false, 127), (true, 0), (true, 48), (true, 127)] := by decide

/-! ## The builders and the comparators -/

/-- What a builder leaves in `TXBUF[0 ..]`, `n` bytes of it. -/
def built (n : Nat) (r : Except Fault State) : List Byte :=
  match r with
  | .ok s => Mem.readBytes s.txbuf 0 n
  | .error _ => []

/-- V20 to V24. -/
theorem test_build :
    built 4 (buildRaw 3#8 { ts with pay := [(0, 0x61#8), (1, 0x62#8), (2, 0x63#8)] }) =
      [0x03#8, 0x61#8, 0x62#8, 0x63#8] ∧
    built 1 (buildRaw 0#8 ts) = [0x00#8] ∧
    built 5 (buildAddressed 0x01#8 0x03#8 2#8 { ts with pay := [(0, 0x48#8), (1, 0x69#8)] }) =
      [0x04#8, 0x03#8, 0x01#8, 0x48#8, 0x69#8] ∧
    built 4 (buildAddressed 0x01#8 0x00#8 1#8 { ts with pay := [(0, 0x21#8)] }) = [0x03#8, 0x00#8, 0x01#8, 0x21#8] ∧
    built 3 (buildAddressed 0x01#8 0x03#8 0#8 ts) = [0x02#8, 0x03#8, 0x01#8] := by decide

/-- V25 (its length byte, and its last data byte at the last index), V26, V27. -/
theorem test_build_limits :
    (let tx := built 62 (buildAddressed 0x01#8 0x03#8 59#8 { ts with pay := [(58, 0xBB#8)] });
      tx.head? = some 0x3D#8 ∧ tx.getLast? = some 0xBB#8) ∧
    built 5 (buildAck 0x03#8 0x01#8 ts) = [0x04#8, 0x01#8, 0x03#8, 0x41#8, 0x63#8] ∧
    built 6 (buildAck 0x03#8 0x01#8 { ts with cfg := { tp with ackTag := [0x41#8, 0x63#8, 0x6B#8] } }) =
      [0x05#8, 0x01#8, 0x03#8, 0x41#8, 0x63#8, 0x6B#8] := by decide

/-- `IsAck` on an `RXBUF` that begins with these bytes. -/
def ackOn (p : Params) (bs : List Byte) (self peer : Byte) : Bool :=
  isAck self peer { ts with cfg := p, rxbuf := Mem.writeBytes [] 0 bs }

/-- V30 to V39. -/
theorem test_is_ack :
    ackOn tp [0x04#8, 0x01#8, 0x03#8, 0x41#8, 0x63#8] 0x01#8 0x03#8 = true ∧
    ackOn tp [0x04#8, 0x02#8, 0x03#8, 0x41#8, 0x63#8] 0x01#8 0x03#8 = false ∧
    ackOn tp [0x04#8, 0x01#8, 0x02#8, 0x41#8, 0x63#8] 0x01#8 0x03#8 = false ∧
    ackOn tp [0x04#8, 0x01#8, 0x03#8, 0x40#8, 0x63#8] 0x01#8 0x03#8 = false ∧
    ackOn tp [0x04#8, 0x01#8, 0x03#8, 0x41#8, 0x62#8] 0x01#8 0x03#8 = false ∧
    ackOn tp [0x05#8, 0x01#8, 0x03#8, 0x41#8, 0x63#8, 0x00#8] 0x01#8 0x03#8 = false ∧
    ackOn tp [0x03#8, 0x01#8, 0x03#8, 0x41#8] 0x01#8 0x03#8 = false ∧
    ackOn tp [0x04#8, 0x00#8, 0x03#8, 0x41#8, 0x63#8] 0x00#8 0x03#8 = false ∧
    ackOn tp [0x04#8, 0x03#8, 0x01#8, 0x41#8, 0x63#8] 0x01#8 0x03#8 = false ∧
    ackOn { tp with ackTag := [0x41#8, 0x63#8, 0x6B#8] } [0x05#8, 0x01#8, 0x03#8, 0x41#8, 0x63#8, 0x6B#8]
      0x01#8 0x03#8 = true := by decide

/-- The line after V39. -/
theorem test_auto_reply :
    autoReply { ts with rxbuf := [(1, 0x03#8)] } = true ∧ autoReply ts = false ∧
    autoReply { ts with rxbuf := [(1, 0xFF#8)] } = true := by decide

/-! ## One step of each instruction -/

/-- V56. -/
theorem test_wr_pay :
    (after (.wrPay 60#8 0xAA#8 0#16) ts).pay = [(60, 0xAA#8)] ∧
    (after (.wrPay 60#8 0xAA#8 0#16) ts).status.ok = true := by decide
theorem test_wr_pay_refused :
    (after (.wrPay 61#8 0xAA#8 0#16) ts).pay = [] ∧
    (after (.wrPay 61#8 0xAA#8 0#16) ts).err.code = .badOperand := by decide

/-- V57. -/
theorem test_rd_rx :
    (after (.rdRx 63#8 0#24) { ts with rxbuf := [(63, 0x5A#8)] }).rdData = 0x5A#8 ∧
    (after (.rdRx 63#8 0#24) { ts with rxbuf := [(63, 0x5A#8)] }).status.word = 0x06#8 := by decide
theorem test_rd_rx_refused :
    (after (.rdRx 64#8 0#24) { ts with rdData := 0x77#8 }).rdData = 0x77#8 ∧
    (after (.rdRx 64#8 0#24) ts).err.word = 0x0B#8 := by decide

/-- V58. -/
theorem test_send_data_refused :
    (after (.sendData 62#8 0#24) ts).err.code = .badOperand ∧ (after (.sendData 62#8 0#24) ts).trace = [] := by decide
theorem test_send_packet_refused :
    (after (.sendPacket 0x01#8 0x03#8 1#8 60#8) ts).err.code = .badOperand ∧
    (after (.sendPacket 0x01#8 0x03#8 1#8 60#8) ts).xSelf = 0x00#8 := by decide
theorem test_send_packet_accepted :
    (after (.sendPacket 0x01#8 0x03#8 1#8 59#8) ts).fsm = .txLoad ∧
    (after (.sendPacket 0x01#8 0x03#8 1#8 59#8) ts).xPeer = 0x03#8 := by decide

/-- V50, its first step: the frame stands in `TXBUF`, and `X_N` = 3. -/
theorem test_send_data :
    (let t := after (.sendData 3#8 0#24) { ts with pay := [(0, 0x61#8), (1, 0x62#8), (2, 0x63#8)] };
      Mem.readBytes t.txbuf 0 4 = [0x03#8, 0x61#8, 0x62#8, 0x63#8] ∧ t.xN = 3#8 ∧ t.cmdReady = false) := by decide

/-- V60, its first step. -/
theorem test_send_ack :
    (let t := after (.sendAck 0x03#8 0x01#8 0#16) ts;
      Mem.readBytes t.txbuf 0 5 = [0x04#8, 0x01#8, 0x03#8, 0x41#8, 0x63#8] ∧ t.xSelf = 0x03#8 ∧ t.xPeer = 0x01#8) := by
  decide

/-- R166 row 5: `R_LEN` is cleared, and the first request is `RX_STATUS`. -/
theorem test_recv_data :
    (let t := after (.recvData 0#32) { ts with rLen := 9#8 };
      t.rLen = 0#8 ∧ currentRequest t = .ok (some .rxStatus)) := ⟨rfl, rfl⟩

/-- V74: with `init_ok` = 0 `RECV_HANDLE` ends `NotReady` and `BadFrame`, and `X_SELF` is unchanged. -/
theorem test_recv_handle_not_ready :
    (let t := after (.recvHandle 0x03#8 0x01#8 0#16) { ts with ports := State.reset.ports };
      t.err.code = .notReady ∧ t.status.rxcode = .badFrame ∧ t.xSelf = 0x00#8) := by decide

/-- V70: the second of two polls after one count of `RX_FLAG`. -/
theorem test_pkt_avail :
    (let t := after (.pktAvail 0#32) { ts with rxFlag := 1 };
      t.status.ok = true ∧ t.rxFlag = 0 ∧ (after (.pktAvail 0#32) t).status.ok = false) := by decide

/-- V72. -/
theorem test_pkt_avail_level :
    (let t := after (.pktAvail 0#32)
        { ts with cfg := { tp with rxSignalMode := .level }, ports := { ts.ports with dataReady := true } };
      t.status.ok = true ∧ t.rxFlag = 0) := by decide

/-- V73: the request of `SET_ADDR`, and that `OWN_ADDR` waits for its answer. -/
theorem test_set_addr :
    (let t := after (.setAddr 0x03#8 0#24) ts;
      currentRequest t = .ok (some (.addrWrite 0x03#8)) ∧ t.ownAddr = 0x00#8 ∧
      (afterEvent (.answer .done) t).ownAddr = 0x03#8) := ⟨rfl, rfl, rfl⟩

/-- V49, V74: the illegal command, whether or not `init_ok`. -/
theorem test_illegal :
    (after (.illegal 0xFF12345678#40) ts).err.code = .illegalCmd ∧
    (after (.illegal 0x0A00000000#40) { ts with ports := State.reset.ports }).err.code = .illegalCmd := by decide

/-- S3: the record as it stands in the FIFO, and `RX_STATUS` = 0x06 of it. -/
theorem test_record :
    (let t := after (.record [0x61#8, 0x62#8, 0x63#8] 0x00#8 0x00#8) ts;
      t.chip.rxFifo = [0x03#8, 0x61#8, 0x62#8, 0x63#8, 0x00#8, 0x00#8] ∧ t.chip.statusByte 0 = 0x06#8) := by decide

/-- R61 to R64: a received frame stands in the FIFO with two more bytes (V20, V22, V26). -/
theorem test_frames :
    (after (.frameRaw [0x61#8, 0x62#8, 0x63#8]) ts).chip.rxFifo.take 4 = [0x03#8, 0x61#8, 0x62#8, 0x63#8] ∧
    (after (.frameAddressed 0x03#8 0x01#8 [0x48#8, 0x69#8]) ts).chip.rxFifo.take 5 =
      [0x04#8, 0x03#8, 0x01#8, 0x48#8, 0x69#8] ∧
    (after (.frameAck 0x01#8 0x03#8) ts).chip.rxFifo.take 5 = [0x04#8, 0x01#8, 0x03#8, 0x41#8, 0x63#8] ∧
    (after (.frameAck 0x01#8 0x03#8) ts).chip.rxFifo.length = 7 := ⟨rfl, rfl, rfl, rfl⟩

/-- `RECV_DATA` waiting for the `RX_STATUS` byte. -/
def tRecv : State := tb 0x0400000000#40 .recvData .rdStatus

/-- P5: the overflow bit is looked at before the count; V54: an empty FIFO ends the command. -/
theorem test_rx_status_byte :
    (after (.rxStatusByte true 0x40#7) tRecv).fsm = .rdFlush ∧
    (after (.rxStatusByte false 0#7) tRecv).err.code = .empty ∧
    (after (.rxStatusByte false 0x06#7) tRecv).fsm = .rdLen := by decide

/-- V71: two edges at depth 2, and the third is not counted. -/
theorem test_edge_saturates :
    (let s := { ts with cfg := { tp with rxFlagDepth := 2 }, rxFlag := 2 };
      (afterEvent (.dataReady true) s).rxFlag = 2 ∧
      (afterEvent (.dataReady true) { s with rxFlag := 1 }).rxFlag = 2) := by decide

/-- V76: `rst` in the middle of a command. -/
theorem test_reset :
    (let t := afterEvent (.rst true) { tRecv with rdData := 0x5A#8 };
      t.status.word = 0x00#8 ∧ t.err.word = 0x00#8 ∧ t.rdData = 0x00#8 ∧ t.fsm = .idle) := by decide

/-- `withFetchWord`: the very next step after reset runs the word; `init_ok` = 0 refuses `SEND_DATA`, not `WR_PAY`
(V74). -/
theorem test_fetch_word :
    (match step (State.reset.withFetchWord 40 0x0800480000) with
      | .next t => t.pay
      | _ => []) = [(0, 0x48#8)] ∧
    (match step (State.reset.withFetchWord 40 0x0100000003) with
      | .next t => t.err.code
      | _ => .none) = .notReady := ⟨rfl, rfl⟩

/-! ## Witnesses: states and operands that meet the hypotheses of the statements, clause by clause -/

/-- `ts` with these events to come. -/
def scripted (es : List Event) (s : State) : State := { s with script := es }

theorem witness_DecodeEncodeRoundTrip :
    tp.wf = true ∧ Instr.wf tp (.frameRaw (List.replicate 61 0x00#8)) = true ∧
    Instr.wf tp (.frameAddressed 3#8 1#8 (List.replicate 59 0x00#8)) = true ∧ Instr.wf tp (.frameAck 3#8 1#8) = true ∧
    Instr.wf tp (.sendPacket 1#8 3#8 3#8 2#8) = true ∧ Instr.wf tp (.illegal 0#40) = true := by decide

theorem witness_DecodedBitsEncodeBack :
    decode tp (.bytes .record [0x00#8, 0x80#8, 0x00#8]) = .ok (.record [] 0x80#8 0x00#8) := by decide

theorem witness_UnassignedOpcodesAreIllegal :
    cwOp 0x00FFFFFFFF#40 = 0#8 ∧ 0x0A ≤ (cwOp 0x0A00000000#40).toNat ∧ cwOp 0x0201030302#40 = 0x02#8 ∧
    cwOp 0x0303010000#40 = 0x03#8 ∧ cwOp 0x0503010000#40 = 0x05#8 ∧
    (1 ≤ (cwOp 0x0100000003#40).toNat ∧ (cwOp 0x0100000003#40).toNat ≤ 9 ∧ cwOp 0x0100000003#40 ≠ 0x02#8 ∧
      cwOp 0x0100000003#40 ≠ 0x03#8 ∧ cwOp 0x0100000003#40 ≠ 0x05#8) ∧
    (1 ≤ (cwOp 0x0904000000#40).toNat ∧ (cwOp 0x0904000000#40).toNat ≤ 9) := by decide

theorem witness_UnusedOperandBitsAreIgnored : ts.cfg.wf = true := by decide

/-- The clauses at their boundary values 127, 128, 129 and 130. -/
theorem witness_RssiFollowsThePiecewiseFormula :
    (0x7F#8).toNat < 128 ∧ 128 ≤ (0x80#8).toNat ∧ ((0x81#8).toNat % 2 = 1 ∧ 129 ≤ (0x81#8).toNat) ∧
    ((0x80#8).toNat % 2 = 0 ∧ 128 ≤ (0x80#8).toNat) := by decide

theorem witness_RstResetsTheBlockOnly :
    (scripted [.rst true] tRecv).nextEvent = .rst true ∧ (scripted [.rst false] ts).nextEvent = .rst false := by decide

/-- `ts` with `rst` asserted. -/
def tHeld : State := { ts with ports := { ts.ports with rst := true } }

theorem witness_NothingHappensWhileRstIsHeld :
    tHeld.ports.rst = true ∧
    (scripted [.code (.word 0#40)] tHeld).nextEvent = .code (.word 0#40) ∧
    (scripted [.code (.status 0#8)] tHeld).nextEvent = .code (.status 0#8) ∧
    (scripted [.answer .done] tHeld).nextEvent = .answer .done ∧ (scripted [.poll] tHeld).nextEvent = .poll ∧
    (scripted [.tick] tHeld).nextEvent = .tick ∧ (scripted [.dataReady true] tHeld).nextEvent = .dataReady true := by
  decide

theorem witness_BuildRawWritesTheFrame :
    Mem.wf ts.txbuf = true ∧ (0#8).toNat ≤ ts.cfg.maxLen ∧ (61#8).toNat ≤ ts.cfg.maxLen := by decide

theorem witness_BuildAddressedWritesTheFrame :
    ts.cfg.wf = true ∧ Mem.wf ts.txbuf = true ∧ (0#8).toNat + 2 ≤ ts.cfg.maxLen ∧
    (59#8).toNat + 2 ≤ ts.cfg.maxLen := by decide

theorem witness_BuildAckWritesTheFrame : ts.cfg.wf = true ∧ Mem.wf ts.txbuf = true := by decide

/-- A state whose `RXBUF` holds the ACK of V30. -/
def tAckHeld : State := { ts with rxbuf := Mem.writeBytes [] 0 [0x04#8, 0x01#8, 0x03#8, 0x41#8, 0x63#8] }

theorem witness_MutatedAckIsNotRecognised :
    Mem.wf tAckHeld.rxbuf = true ∧ isAck 0x01#8 0x03#8 tAckHeld = true ∧ 0 ≤ 2 + tAckHeld.cfg.ackTagLen ∧
    4 ≤ 2 + tAckHeld.cfg.ackTagLen ∧ 0x05#8 ≠ tAckHeld.byteAt .rxbuf 0 ∧ 0x62#8 ≠ tAckHeld.byteAt .rxbuf 4 := by
  decide

theorem ts_inv : ts.Inv := State.inv_of_check (by decide)
theorem tHeld_inv : tHeld.Inv := State.inv_of_check (by decide)
theorem tRecv_inv : tRecv.Inv := State.inv_of_check (by decide)

/-- Accepted, ignored while busy, ignored in reset. -/
theorem witness_AcceptanceSamplesTheCommand :
    let w := 0x0400000000#40
    ((scripted [.code (.word w)] ts).Inv ∧ (scripted [.code (.word w)] ts).nextEvent = .code (.word w) ∧
      (scripted [.code (.word w)] ts).canAccept = true) ∧
    ((scripted [.code (.word w)] tRecv).Inv ∧ (scripted [.code (.word w)] tRecv).nextEvent = .code (.word w) ∧
      (scripted [.code (.word w)] tRecv).canAccept = false) ∧
    ((scripted [.code (.word w)] tHeld).Inv ∧ (scripted [.code (.word w)] tHeld).canAccept = false) :=
  ⟨⟨State.inv_of_check (by decide), by decide, by decide⟩, ⟨State.inv_of_check (by decide), by decide, by decide⟩,
    ⟨State.inv_of_check (by decide), by decide⟩⟩

/-- `ts` before `init_ok`, and without the link layer. -/
def tNotReady : State := { ts with ports := { ts.ports with initOk := false } }
def tNoLink : State := { ts with cfg := { tp with linkLayer := false } }

theorem witness_RefusedCommandsChangeNothing :
    (tNotReady.canAccept = true ∧ tNotReady.ports.initOk = false ∧ tNotReady.cfg.linkLayer = true) ∧
    (ts.canAccept = true ∧ ts.ports.initOk = true ∧ ts.cfg.linkLayer = true) ∧
    ts.cfg.maxLen < (62#8).toNat ∧ ts.cfg.maxLen < (60#8).toNat + 2 ∧ ts.cfg.maxLen ≤ (61#8).toNat ∧
    ts.cfg.maxLen + 2 < (64#8).toNat ∧ (tNoLink.canAccept = true ∧ tNoLink.cfg.linkLayer = false) := by decide

theorem witness_IllegalCommandEndsAtOnce :
    (ts.canAccept = true ∧ opAssigned ts.cfg.linkLayer (cwOp 0x0A00000000#40) = false) ∧
    (tNotReady.canAccept = true ∧ opAssigned tNotReady.cfg.linkLayer (cwOp 0x0000000000#40) = false) ∧
    (tNoLink.canAccept = true ∧ opAssigned tNoLink.cfg.linkLayer (cwOp 0x0201030302#40) = false) := by decide

/-- `RECV_HANDLE` waiting for the `RX_STATUS` byte. -/
def tHandle : State := { tb 0x0503010000#40 .recvHandle .rdStatus with xSelf := 0x03#8, xPeer := 0x01#8 }

theorem tHandle_inv : tHandle.Inv := State.inv_of_check (by decide)

theorem witness_FinishAndRaiseEndTheCommand :
    (tRecv.Inv ∧ tRecv.status.busy = true) ∧ tHandle.Inv ∧ tHandle.status.busy = true :=
  ⟨⟨tRecv_inv, rfl⟩, tHandle_inv, rfl⟩

theorem witness_WrPayStoresOneByte :
    ts.canAccept = true ∧ Mem.wf ts.pay = true ∧ (60#8).toNat < ts.cfg.maxLen ∧ ts.cfg.maxLen ≤ (61#8).toNat := by
  decide

theorem witness_RdRxReadsOneByte :
    ts.canAccept = true ∧ (63#8).toNat ≤ ts.cfg.maxLen + 2 ∧ ts.cfg.maxLen + 2 < (64#8).toNat := by decide

theorem witness_PktAvailPolls :
    let level : State := { ts with cfg := { tp with rxSignalMode := .level } }
    (level.canAccept = true ∧ level.cfg.rxSignalMode = .level) ∧
    (ts.canAccept = true ∧ ts.cfg.rxSignalMode = .edge ∧ ts.rxFlag = 0) ∧
    (({ ts with rxFlag := 1 } : State).canAccept = true ∧ 0 < ({ ts with rxFlag := 1 } : State).rxFlag ∧
      ({ ts with rxFlag := 1 } : State).rxFlag = 1) := by decide

theorem witness_DataReadyEdgeSaturates :
    ((scripted [.dataReady true] tRecv).nextEvent = .dataReady true ∧ tRecv.ports.dataReady = false ∧
      tRecv.ports.rst = false) ∧
    (scripted [.dataReady false] ts).nextEvent = .dataReady false ∧
    ((scripted [.dataReady true] tHeld).nextEvent = .dataReady true ∧ tHeld.ports.rst = true) := by decide

theorem witness_SendDataStarts :
    ts.canAccept = true ∧ ts.ports.initOk = true ∧ Mem.wf ts.txbuf = true ∧ (61#8).toNat ≤ ts.cfg.maxLen := by decide

theorem witness_SendPacketStarts :
    ts.canAccept = true ∧ ts.ports.initOk = true ∧ ts.cfg.linkLayer = true ∧ ts.cfg.wf = true ∧
    Mem.wf ts.txbuf = true ∧ (59#8).toNat + 2 ≤ ts.cfg.maxLen := by decide

theorem witness_SendAckStarts :
    ts.canAccept = true ∧ ts.ports.initOk = true ∧ ts.cfg.linkLayer = true ∧ ts.cfg.wf = true ∧
    Mem.wf ts.txbuf = true := by decide

theorem witness_ReceiveCommandsStart :
    ts.canAccept = true ∧ ts.ports.initOk = true ∧ ts.cfg.linkLayer = true := by decide

theorem witness_SetAddrWritesThrough :
    let w := wordSetAddr 0x03#8 0#24
    (tNotReady.canAccept = true ∧ tNotReady.ports.initOk = false) ∧
    (∃ s : State, s.canAccept = true ∧ s.ports.initOk = true ∧
      s.script = [.code (.word w), .answer .done]) ∧
    ∃ s : State, s.canAccept = true ∧ s.ports.initOk = true ∧
      s.script = [.code (.word w), .answer .busTimeout] :=
  ⟨by decide, ⟨scripted _ ts, by decide, by decide, rfl⟩, ⟨scripted _ ts, by decide, by decide, rfl⟩⟩

theorem witness_SendDataSendsOneFrame (sent : Bool) :
    ∃ s : State, s.Inv ∧ s.canAccept = true ∧ s.ports.initOk = true ∧ (61#8).toNat ≤ s.cfg.maxLen ∧
      s.script = [.code (.word (wordSendData 61#8 0#24)), .answer .done, .answer (sentReply sent), .answer .done] :=
  ⟨scripted _ ts, State.inv_of_check (by rfl), rfl, rfl, Nat.le_refl 61, rfl⟩

theorem witness_SendAckSendsOneFrame (sent : Bool) :
    ∃ s : State, s.Inv ∧ s.canAccept = true ∧ s.ports.initOk = true ∧ s.cfg.linkLayer = true ∧
      s.script =
        [.code (.word (wordSendAck 3#8 1#8 0#16)), .answer .done, .answer (sentReply sent), .answer .done] :=
  ⟨scripted _ ts, State.inv_of_check (by rfl), rfl, rfl, rfl, rfl⟩

/-- P4: a retry budget of 5. -/
theorem witness_BroadcastSendNeverWaits :
    ∃ s : State, s.Inv ∧ s.canAccept = true ∧ s.ports.initOk = true ∧ s.cfg.linkLayer = true ∧
      (1#8).toNat + 2 ≤ s.cfg.maxLen ∧
      s.script = [.code (.word (wordSendPacket 1#8 s.cfg.broadcastAddr 5#8 1#8)),
        .answer .done, .answer .done, .answer .done] :=
  ⟨scripted [.code (.word (wordSendPacket 1#8 0x00#8 5#8 1#8)), .answer .done, .answer .done, .answer .done] ts,
    State.inv_of_check (by rfl), rfl, rfl, rfl, by decide, rfl⟩

/-- A command of context `c` whose frame stands in `TXBUF`, about to be transmitted to `peer`. -/
def tSend (w : CmdWord) (c : Ctx) (peer : Byte) (p : Params) (sent : Bool) : State :=
  { tb w c .txLoad with
    cfg := p, txbuf := [(0, 0x02#8), (1, peer), (2, 0x01#8)], xSelf := 0x01#8, xPeer := peer, xMaxRetry := 2#8
    script := [.answer .done, .answer (sentReply sent), .answer .done] }

/-- One state for each context and for each way on. -/
theorem witness_TransmitEndsByItsContext :
    (tSend 0x0100000002#40 .sendData 3#8 tp true).Inv ∧ (tSend 0x0100000002#40 .sendData 3#8 tp false).Inv ∧
    (tSend 0x0303010000#40 .sendAck 3#8 tp true).Inv ∧ (tSend 0x0503010000#40 .autoAck 3#8 tp false).Inv ∧
    (tSend 0x0201000200#40 .sendPacket 2#8 { tp with broadcastAddr := 2#8 } true).Inv ∧
    (tSend 0x0201030200#40 .sendPacket 3#8 tp true).Inv ∧ (tSend 0x0201030200#40 .sendPacket 3#8 tp false).Inv ∧
    (tSend 0x0201030200#40 .sendPacket 3#8 { tp with ackTimeoutSteps := 0 } true).Inv ∧
    (tSend 0x0201030200#40 .sendPacket 3#8 tp true).fsm = .txLoad ∧
    (tSend 0x0201030200#40 .sendPacket 3#8 tp true).xPeer ≠ tp.broadcastAddr :=
  ⟨State.inv_of_check (by decide), State.inv_of_check (by decide), State.inv_of_check (by decide),
    State.inv_of_check (by decide), State.inv_of_check (by decide), State.inv_of_check (by decide),
    State.inv_of_check (by decide), State.inv_of_check (by decide), rfl, by decide⟩

/-- A read that waits for its `RX_STATUS` byte `b`, with this record in the FIFO and `k` answers after the byte. -/
def tRead (s : State) (payload : List Byte) (b : Byte) (k : Nat) : State :=
  { s with
    chip := { s.chip with rxFifo := fifoWith payload 0x3C#8 0xB0#8 [0x77#8] }
    script := .code (.status b) :: List.replicate k (.answer .done) }

theorem tRead_shape (s : State) (payload : List Byte) (b : Byte) (k : Nat) :
    (tRead s payload b k).chip.rxFifo = fifoWith payload 0x3C#8 0xB0#8 [0x77#8] ∧
    (tRead s payload b k).script = .code (.status b) :: (List.replicate k (.answer .done) ++ []) := by
  simp [tRead]

/-- Both builders, a frame of data and the empty raw frame, read by `RECV_DATA` with a zero second trailer byte. -/
theorem witness_BuiltFrameIsReadBack :
    (∃ s' : State, buildAddressed 0x01#8 0x03#8 2#8 { ts with pay := [(0, 0x48#8), (1, 0x69#8)] } = .ok s' ∧
      ∃ r : State, r.Inv ∧ r.ports.rst = false ∧ r.fsm = .rdStatus ∧ (s'.byteAt .txbuf 0).toNat ≤ r.cfg.maxLen ∧
        r.chip.rxFifo = Mem.readBytes s'.txbuf 0 ((s'.byteAt .txbuf 0).toNat + 1) ++ [0x3C#8, 0x00#8] ∧
        statusOvf 0x07#8 = false ∧ statusCnt 0x07#8 ≠ 0#7 ∧
        r.script = .code (.status 0x07#8) ::
          (List.replicate (if s'.byteAt .txbuf 0 = 0x00#8 then 2 else 3) (.answer .done) ++ [])) ∧
    ∃ s' : State, buildRaw 0#8 ts = .ok s' ∧
      ∃ r : State, r.Inv ∧ r.ports.rst = false ∧ r.fsm = .rdStatus ∧ (s'.byteAt .txbuf 0).toNat ≤ r.cfg.maxLen ∧
        r.chip.rxFifo = Mem.readBytes s'.txbuf 0 ((s'.byteAt .txbuf 0).toNat + 1) ++ [0x3C#8, 0x00#8] ∧
        r.script = .code (.status 0x03#8) ::
          (List.replicate (if s'.byteAt .txbuf 0 = 0x00#8 then 2 else 3) (.answer .done) ++ []) :=
  ⟨⟨_, rfl, { tRecv with
      chip := { tRecv.chip with rxFifo := [0x04#8, 0x03#8, 0x01#8, 0x48#8, 0x69#8, 0x3C#8, 0x00#8] }
      script := [.code (.status 0x07#8), .answer .done, .answer .done, .answer .done] },
      State.inv_of_check (by decide), rfl, rfl, by decide, by decide, by decide, by decide, by decide⟩,
    ⟨_, rfl, { tRecv with
      chip := { tRecv.chip with rxFifo := [0x00#8, 0x3C#8, 0x00#8] }
      script := [.code (.status 0x03#8), .answer .done, .answer .done] },
      State.inv_of_check (by decide), rfl, rfl, by decide, by decide, by decide⟩⟩

/-- The empty record of V53 and the longest one of V55. -/
theorem witness_RecvDataDeliversTheRecord :
    (tRead tRecv [] 0x03#8 2).Inv ∧ (tRead tRecv (List.replicate 61 0x61#8) 0x40#8 3).Inv ∧
    (List.replicate 61 0x61#8).length ≤ tRecv.cfg.maxLen ∧ tRecv.ports.rst = false ∧ tRecv.fsm = .rdStatus ∧
    tRecv.ctx = .recvData ∧ statusOvf 0x03#8 = false ∧ statusCnt 0x03#8 ≠ 0#7 ∧ statusOvf 0x40#8 = false ∧
    statusCnt 0x40#8 ≠ 0#7 ∧ readAnswers [] - 1 = 2 ∧ readAnswers (List.replicate 61 0x61#8) - 1 = 3 :=
  ⟨State.inv_of_check (by decide), State.inv_of_check (by decide), by decide, rfl, rfl, rfl, by decide, by decide,
    by decide, by decide, rfl, rfl⟩

/-- V54, P5 and P6 for both commands. -/
theorem witness_ReceiveOfBadFifoFails (s : State) (hs : s = tRecv ∨ s = tHandle) :
    (scripted [.code (.status 0x00#8)] s).Inv ∧
    (scripted [.code (.status 0xC0#8), .answer .done, .answer .done] s).Inv ∧
    ({ scripted [.code (.status 0x40#8), .answer .done, .answer .done, .answer .done] s with
      chip := { s.chip with rxFifo := [0x3E#8, 0x01#8] } } : State).Inv ∧
    s.ports.rst = false ∧ s.fsm = .rdStatus ∧ (s.ctx = .recvData ∨ s.ctx = .recvHandle) ∧
    statusOvf 0x00#8 = false ∧ statusCnt 0x00#8 = 0#7 ∧ statusOvf 0xC0#8 = true ∧ statusOvf 0x40#8 = false ∧
    statusCnt 0x40#8 ≠ 0#7 ∧ s.cfg.maxLen < (0x3E#8).toNat := by
  rcases hs with rfl | rfl <;>
  exact ⟨State.inv_of_check (by decide), State.inv_of_check (by decide), State.inv_of_check (by decide), rfl, rfl,
    by decide, by decide, by decide, by decide, by decide, by decide, by decide⟩

/-- V63 and V64. -/
theorem witness_RecvHandleRejectsShortFrames :
    (tRead tHandle [] 0x03#8 2).Inv ∧ (tRead tHandle [0x07#8] 0x04#8 3).Inv ∧ tHandle.ctx = .recvHandle ∧
    [0x07#8].length ≤ 1 ∧ statusOvf 0x04#8 = false ∧ statusCnt 0x04#8 ≠ 0#7 ∧ readAnswers [0x07#8] - 1 = 3 :=
  ⟨State.inv_of_check (by decide), State.inv_of_check (by decide), rfl, by decide, by decide, by decide, rfl⟩

theorem witness_RecvHandleReportsAck :
    (tRead tHandle (tHandle.xSelf :: tHandle.xPeer :: tHandle.cfg.ackTag) 0x07#8 3).Inv ∧
    tHandle.ctx = .recvHandle ∧ tHandle.xSelf ≠ tHandle.cfg.broadcastAddr ∧ statusOvf 0x07#8 = false ∧
    statusCnt 0x07#8 ≠ 0#7 := ⟨State.inv_of_check (by decide), rfl, by decide, by decide, by decide⟩

/-- A broadcast frame (V62) and a frame for this station (V65 without the bus timeout). -/
theorem witness_RecvHandleDeliversData (sent : Bool) :
    ((tRead tHandle [0x00#8, 0x01#8, 0x21#8] 0x06#8 3).Inv ∧ 0x00#8 = tHandle.cfg.broadcastAddr ∧
      [0x21#8].length + 2 ≤ tHandle.cfg.maxLen) ∧
    (({ tRead tHandle [0x03#8, 0x01#8, 0x48#8, 0x69#8] 0x07#8 3 with
        script := [.code (.status 0x07#8), .answer .done, .answer .done, .answer .done, .answer .done,
          .answer (sentReply sent), .answer .done] } : State).Inv ∧
      0x03#8 ≠ tHandle.cfg.broadcastAddr ∧
      ¬ (0x03#8 = tHandle.xSelf ∧ 0x01#8 = tHandle.xPeer ∧ [0x48#8, 0x69#8] = tHandle.cfg.ackTag ∧
        0x03#8 ≠ tHandle.cfg.broadcastAddr)) ∧
    statusOvf 0x06#8 = false ∧ statusCnt 0x06#8 ≠ 0#7 :=
  ⟨⟨State.inv_of_check (by decide), by decide, by decide⟩, ⟨State.inv_of_check (by cases sent <;> decide), by decide, by decide⟩,
    by decide, by decide⟩

/-- `SEND_PACKET 0x01, 0x03, 2, 2` in its first attempt, at state `f`. -/
def tWait (f : Fsm) : State :=
  { tb 0x0201030202#40 .sendPacket f with xSelf := 0x01#8, xPeer := 0x03#8, xMaxRetry := 2#8, xN := 2#8 }

theorem witness_AwaitedAckEndsTheCommand :
    (tRead (tWait .rdStatus) [0x01#8, 0x03#8, 0x41#8, 0x63#8] 0x07#8 3).Inv ∧
    (tWait .rdStatus).ctx = .sendPacket ∧ (tWait .rdStatus).xSelf ≠ tp.broadcastAddr ∧
    [0x01#8, 0x03#8, 0x41#8, 0x63#8] = (tWait .rdStatus).xSelf :: (tWait .rdStatus).xPeer :: tp.ackTag :=
  ⟨State.inv_of_check (by decide), rfl, by decide, rfl⟩

/-- The ACK of another station (P7), an empty, an overflowed and an oversized FIFO. -/
theorem witness_FirstRecordEndsTheWait :
    (tRead (tWait .rdStatus) [0x01#8, 0x02#8, 0x41#8, 0x63#8] 0x07#8 4).Inv ∧
    [0x01#8, 0x02#8, 0x41#8, 0x63#8] ≠ (tWait .rdStatus).xSelf :: (tWait .rdStatus).xPeer :: tp.ackTag ∧
    readAnswers [0x01#8, 0x02#8, 0x41#8, 0x63#8] = 4 ∧
    (scripted [.code (.status 0x00#8)] (tWait .rdStatus)).Inv ∧
    (scripted [.code (.status 0x80#8), .answer .done, .answer .done] (tWait .rdStatus)).Inv ∧
    ({ scripted [.code (.status 0x40#8), .answer .done, .answer .done, .answer .done] (tWait .rdStatus) with
      chip := { ts.chip with rxFifo := [0x3E#8] } } : State).Inv ∧
    (tWait .rdStatus).ports.rst = false ∧ (tWait .rdStatus).ctx = .sendPacket :=
  ⟨State.inv_of_check (by decide), by decide, rfl, State.inv_of_check (by decide), State.inv_of_check (by decide),
    State.inv_of_check (by decide), rfl, rfl⟩

/-- A poll that finds a count or the line, and one that finds nothing; an edge; another event; and P3's two polls, with
attempts left and in the last attempt. -/
theorem witness_AckWaitPollsAndTimesOut :
    (let s : State := { scripted [.poll] (tWait .ackPoll) with rxFlag := 1 };
      s.Inv ∧ s.ports.rst = false ∧ s.fsm = .ackPoll ∧ s.nextEvent = .poll ∧ s.cfg.rxSignalMode = .edge) ∧
    (let s : State := { scripted [.poll] (tWait .ackPoll) with
        cfg := { tp with rxSignalMode := .level }, ports := { ts.ports with dataReady := true } };
      s.Inv ∧ s.nextEvent = .poll ∧ s.cfg.rxSignalMode = .level) ∧
    (let s := scripted [.dataReady true] (tWait .ackPoll);
      s.Inv ∧ s.nextEvent = .dataReady true ∧ s.ports.dataReady = false) ∧
    (let s := scripted [.tick] (tWait .ackPoll);
      s.Inv ∧ s.nextEvent ≠ .rst true ∧ s.nextEvent ≠ .dataReady true ∧ s.nextEvent ≠ .dataReady false) ∧
    (scripted [.poll, .tick, .poll, .tick] (tWait .ackPoll)).Inv ∧
    ({ scripted [.poll, .tick, .poll, .tick] (tWait .ackPoll) with retryCnt := 1#8 } : State).Inv ∧
    (tWait .ackPoll).waitCnt = 0 ∧ (tWait .ackPoll).rxFlag = 0 ∧
    [Event.poll, .tick, .poll, .tick] =
      (List.replicate (tWait .ackPoll).cfg.ackTimeoutSteps [Event.poll, Event.tick]).flatten ++ [] :=
  ⟨⟨State.inv_of_check (by decide), rfl, rfl, rfl, rfl⟩, ⟨State.inv_of_check (by decide), rfl, rfl⟩,
    ⟨State.inv_of_check (by decide), rfl, rfl⟩, ⟨State.inv_of_check (by decide), by decide, by decide, by decide⟩,
    State.inv_of_check (by decide), State.inv_of_check (by decide), rfl, rfl, rfl⟩

/-- R166 rows 18 and 19, R49, R170: a true poll takes the count and reads; a false one waits for a tick; an event that
is not the poll does not keep the poll waiting. -/
theorem test_ack_poll :
    (let t := afterEvent .poll { tWait .ackPoll with rxFlag := 1 };
      t.fsm = .rdStatus ∧ t.rxFlag = 0 ∧ t.trace = [.poll true]) ∧
    (afterEvent .poll (tWait .ackPoll)).fsm = .ackTick ∧
    (let t := afterEvent (.initOk false) (tWait .ackPoll); t.fsm = .ackTick ∧ t.ports.initOk = false) := by decide

/-- R211 b: the chip's own reset replays `OWN_ADDR`. -/
theorem test_chip_reset : (afterEvent .chipReset { ts with ownAddr := 0x07#8 }).chip.addr = 0x07#8 := rfl

/-- An attempt left with and without a backoff, none left, and the backoff itself. -/
theorem witness_RetryDecision :
    ((tWait .ackTick).Inv ∧ (tWait .ackTick).retryCnt.toNat + 1 < (tWait .ackTick).xMaxRetry.toNat ∧
      0 < (tWait .ackTick).cfg.backoffTicks) ∧
    (let s : State := { tWait .ackTick with cfg := { tp with backoffTicks := 0 } }; s.Inv ∧ s.cfg.backoffTicks = 0) ∧
    (let s : State := { tWait .ackTick with retryCnt := 1#8 };
      s.Inv ∧ s.xMaxRetry.toNat ≤ s.retryCnt.toNat + 1) ∧
    ((scripted [.tick] (tWait .backoff)).Inv ∧ (tWait .backoff).waitCnt = 0 ∧
      [Event.tick] = List.replicate (tWait .backoff).cfg.backoffTicks .tick ++ []) :=
  ⟨⟨State.inv_of_check (by decide), by decide, by decide⟩, ⟨State.inv_of_check (by decide), rfl⟩,
    ⟨State.inv_of_check (by decide), by decide⟩, ⟨State.inv_of_check (by decide), rfl, rfl⟩⟩

theorem witness_BusTimeoutEndsTheCommand :
    let s := scripted [.answer .busTimeout] tHandle
    s.Inv ∧ s.ports.rst = false ∧ s.fsm.requests = true ∧ s.nextEvent = .answer .busTimeout :=
  ⟨State.inv_of_check (by decide), rfl, rfl, rfl⟩

/-- Every clause: `RECV_DATA`, `SEND_PACKET`, no request outstanding, and reset. -/
theorem witness_StatusByteAnswersRxStatus :
    tRecv.Inv ∧ tRecv.ports.rst = false ∧ tRecv.fsm = .rdStatus ∧ (tWait .rdStatus).Inv ∧ ts.Inv ∧
    ts.fsm ≠ .rdStatus ∧ tHeld.Inv ∧ tHeld.ports.rst = true :=
  ⟨tRecv_inv, rfl, rfl, State.inv_of_check (by decide), ts_inv, by decide, tHeld_inv, rfl⟩

theorem witness_RadioAnswersFromItsFifo :
    ts.chip.rxFifo.length ≤ 127 ∧ 0 < [0x61#8].length ∧ 0 < 2 := by decide

/-- A read of a complete record: its `RX_STATUS` byte and its three pops. -/
theorem witness_PremisesKeepReadsWithinFrames_complete :
    let s := tRead tRecv [0x61#8, 0x62#8] 0x07#8 3
    s.Inv ∧ s.RecordAhead ∧ RxRecordComplete 4 s ∧
    ∃ t, reaches 2 s t ∧ currentRequest t = .ok (some (.rxfifoPop 2)) := by
  refine ⟨State.inv_of_check (by decide), by unfold State.RecordAhead; decide, ?_, _, rfl, rfl⟩
  intro k t b hk h hf _ _ _ _
  match k, h with
  | 0, h => cases h; decide
  | 1, h => cases h; exact absurd hf (by decide)
  | 2, h => cases h; exact absurd hf (by decide)
  | 3, h => cases h; exact absurd hf (by decide)
  | k + 4, _ => omega

/-- A frame for this station in the RX FIFO, and another that arrives. -/
theorem witness_PremisesKeepReadsWithinFrames_filtered :
    let s : State := { scripted [.code (.bytes .addressed [0x04#8, 0x03#8, 0x01#8, 0x48#8, 0x69#8])] ts with
      chip := { ts.chip with addr := 0x03#8, rxFifo := fifoWith [0x03#8, 0x01#8] 0x3C#8 0xB0#8 [] } }
    s.Inv ∧ framesFor s.cfg s.chip.addr s.chip.rxFifo = true ∧ ChipFilters 1 s ∧ s.delivers = true ∧
    ∃ t, step s = .next t := by
  refine ⟨State.inv_of_check (by decide), by decide, ?_, rfl, _, rfl⟩
  intro k t u hk h hu
  obtain rfl : k = 0 := by omega
  cases h
  cases hu
  rfl

theorem witness_StepRunsTheDecodedInstruction :
    (scripted [.code (.word 0x0400000000#40)] ts).nextEvent = .code (.word 0x0400000000#40) ∧
    decode ts.cfg (.word 0x0400000000#40) = .ok (.recvData 0#32) ∧
    decode ts.cfg (tableCode 40 0x0400000000) = .ok (.recvData 0#32) := by decide

theorem witness_StepKeepsTheInvariant : ts.Inv ∧ ∃ t, step (scripted [.tick] ts) = .next t := ⟨ts_inv, _, rfl⟩

theorem witness_NothingStopsTheMachine : ts.Inv ∧ tRecv.Inv := ⟨ts_inv, tRecv_inv⟩

theorem witness_PayIsWrittenByWrPayOnly :
    let s := scripted [.code (.word 0x0800480000#40)] ts
    s.Inv ∧ ∃ t, step s = .next t ∧ t.pay ≠ s.pay := ⟨State.inv_of_check (by decide), _, rfl, by decide⟩

/-- A step in which each register of the statement changes. -/
theorem witness_HostRegistersHaveTheirWriters :
    (let s := scripted [.code (.word 0x0900000000#40)] { ts with rxbuf := [(0, 0x04#8)] };
      s.Inv ∧ s.nextEvent ≠ .rst true ∧ ∃ t, step s = .next t ∧ t.rdData ≠ s.rdData) ∧
    (let s := scripted [.answer .done] (tb 0x0703000000#40 .setAddr .addrWr);
      s.Inv ∧ s.nextEvent ≠ .rst true ∧ ∃ t, step s = .next t ∧ t.ownAddr ≠ s.ownAddr) ∧
    (let s := scripted [.answer .done] { tHandle with
        fsm := .rdTrailer, rxbuf := [(0, 0x02#8), (1, 0x03#8), (2, 0x01#8)]
        chip := { ts.chip with rxFifo := [0x3C#8, 0xB0#8] } };
      s.Inv ∧ s.nextEvent ≠ .rst true ∧ ∃ t, step s = .next t ∧ t.rDest ≠ s.rDest ∧ t.rSrc ≠ s.rSrc ∧
        t.rRssiRaw ≠ s.rRssiRaw ∧ t.rLqiRaw ≠ s.rLqiRaw ∧ t.rLen ≠ s.rLen) :=
  ⟨⟨State.inv_of_check (by decide), by decide, _, rfl, by decide⟩,
    ⟨State.inv_of_check (by decide), by decide, _, rfl, by decide⟩,
    ⟨State.inv_of_check (by decide), by decide, _, rfl, by decide⟩⟩

theorem witness_ParametersNeverChange : ∃ t, step (scripted [.tick] ts) = .next t := ⟨_, rfl⟩

theorem witness_UnawaitedEventsLeaveTheBlock :
    let s := scripted [.dataReady true] tRecv
    s.Inv ∧ s.status.busy = true ∧ s.awaits s.nextEvent = false ∧ s.nextEvent ≠ .rst true ∧
    ∃ t, step s = .next t ∧ t.rxFlag ≠ s.rxFlag :=
  ⟨State.inv_of_check (by decide), rfl, by decide, by decide, _, rfl, by decide⟩

theorem witness_AwaitedEventsShortenTheCommand :
    let s := scripted [.poll] (tWait .ackPoll)
    s.Inv ∧ s.status.busy = true ∧ s.awaits s.nextEvent = true ∧ ∃ t, step s = .next t :=
  ⟨State.inv_of_check (by decide), rfl, by decide, _, rfl⟩

theorem witness_TransmitsAreCounted :
    let s := scripted [.answer .done] (tWait .txGo)
    s.Inv ∧ s.TransmitsCounted ∧ s.ctx = .sendPacket ∧ s.nextEvent ≠ .rst true ∧ ∃ t, step s = .next t :=
  ⟨State.inv_of_check (by decide), fun _ => rfl, rfl, by decide, _, rfl⟩

/-- The last tick of the last attempt, and the awaited ACK: the two ways in which the counted command ends. -/
theorem witness_TransmitsAreCounted_ends :
    (let s : State := scripted [.tick] { tWait .ackTick with
        retryCnt := 1#8, waitCnt := 1, trace := List.replicate 2 (.request .txGo .txOk) };
      s.Inv ∧ s.TransmitsCounted ∧ ∃ t, step s = .next t ∧ t.status.busy = false ∧ t.err.code = .retries) ∧
    (let s : State := scripted [.answer .done] { tWait .rdTrailer with
        rxbuf := Mem.writeBytes [] 0 [0x04#8, 0x01#8, 0x03#8, 0x41#8, 0x63#8]
        chip := { ts.chip with rxFifo := [0x3C#8, 0xB0#8] }, trace := [.request .txGo .txOk] };
      s.Inv ∧ s.TransmitsCounted ∧ ∃ t, step s = .next t ∧ t.status.busy = false ∧ t.status.ok = true) :=
  ⟨⟨State.inv_of_check (by decide), fun _ => rfl, _, rfl, by decide, by decide⟩,
    ⟨State.inv_of_check (by decide), fun _ => rfl, _, rfl, by decide, by decide⟩⟩

theorem witness_OwnAddrIsReadByNoRule :
    ts.Inv ∧ (scripted [.tick] ts).nextEvent ≠ .chipReset ∧ (scripted [.chipReset] ts).nextEvent = .chipReset :=
  ⟨ts_inv, by decide, rfl⟩

/-- The last attempt with one poll and one tick left, after its transmit: its `RX_GO`, its poll and its tick are to
come. -/
def tEnd : State :=
  { tWait .txRxgo with
    cfg := { tp with ackTimeoutSteps := 1 }, txres := true, xMaxRetry := 1#8
    script := [.answer .done, .poll, .tick] }

/-- The state after the next event. -/
def stepped (s : State) : State :=
  match step s with
  | .next t => t
  | _ => s

/-- The command of `tEnd` is in progress for two steps, in these three states. -/
theorem tEnd_states {k : Nat} {t : State} (hp : tEnd.InProgress k) (h : reaches k tEnd t) :
    t = tEnd ∨ t = stepped tEnd ∨ t = stepped (stepped tEnd) := by
  match k, h with
  | 0, h => exact .inl (Host.Outcome.next.inj h).symm
  | 1, h => exact .inr (.inl (Host.Outcome.next.inj h).symm)
  | 2, h => exact .inr (.inr (Host.Outcome.next.inj h).symm)
  | k + 3, _ =>
    have h3 : reaches 3 tEnd (stepped (stepped (stepped tEnd))) := rfl
    exact absurd (hp 3 _ (by omega) h3) (by decide)

/-- In each of them the next event is the awaited one. -/
theorem tEnd_awaits {k : Nat} {t : State} (hp : tEnd.InProgress k) (h : reaches k tEnd t) :
    ∃ j u, reaches j t u ∧ u.awaits u.nextEvent = true := by
  refine ⟨0, t, rfl, ?_⟩
  rcases tEnd_states hp h with rfl | rfl | rfl <;> decide

/-- The two premises together, of a command that issues a request, polls and waits for a tick. -/
theorem witness_EveryCommandEnds :
    tEnd.Inv ∧ BusResponds tEnd ∧ TicksArrive tEnd ∧
    tEnd.fsm.requests = true ∧ (stepped tEnd).fsm = .ackPoll ∧ (stepped (stepped tEnd)).fsm = .ackTick :=
  ⟨State.inv_of_check (by decide), fun _ _ hp h _ => tEnd_awaits hp h, fun _ _ hp h _ => tEnd_awaits hp h, rfl, rfl, rfl⟩

end Sys2Proof.Tests
end

namespace Sys2Proof.Machine

/-! # The rows of the transition table as relations

One constructor per way on, with its guards: what each part of the sequencer and of `exec` can do when it answers. Every
invariant is then a short case analysis over the named rows. -/

/-! ## Reads and the auto-reply -/

/-- `R_RSSI_RAW` and `R_LQI_RAW` from the trailer of the record in `RXBUF` (40_framer.md R99, 41_link.md R127). -/
def State.trailerTaken (s : State) : State :=
  { s with
    rRssiRaw := s.byteAt .rxbuf ((s.byteAt .rxbuf 0).toNat + 1)
    rLqiRaw := s.byteAt .rxbuf ((s.byteAt .rxbuf 0).toNat + 2) }

/-- `R_LEN`, `R_DEST` and `R_SRC` from the head of the record in `RXBUF` (41_link.md R127). -/
def State.headTaken (s : State) : State :=
  { s with rLen := s.byteAt .rxbuf 0, rDest := s.byteAt .rxbuf 1, rSrc := s.byteAt .rxbuf 2 }

/-- The error of a read that gave no record (40_framer.md R99, 41_link.md R124, R127). -/
def RdRes.cause : RdRes → Option ErrCode
  | .empty => some .empty
  | .overflow => some .rxOverflow
  | .oversize => some .oversized
  | .none | .ok | .badAck => Option.none

theorem takeTrailer_eq_ok {s t : State} (h : takeTrailer s = .ok t) :
    (s.byteAt .rxbuf 0).toNat ≤ s.cfg.maxLen ∧ t = s.trailerTaken := by
  obtain ⟨_, hr, rfl⟩ := except_map_eq_ok.1 h
  have hl := (memRead_eq_ok.1 hr).1
  simp only [size_rxbuf] at hl
  exact ⟨by omega, rfl⟩

theorem autoAck_eq_ok {s t : State} (h : autoAck s = .ok t) :
    s.cfg.ackTagLen + 2 ≤ s.cfg.maxLen ∧
      t = { s with
        txbuf := Mem.writeBytes s.txbuf 0 (ackFrame s.cfg (s.byteAt .rxbuf 2) (s.byteAt .rxbuf 1))
        ctx := .autoAck
        fsm := .txLoad } := by
  obtain ⟨_, hb, rfl⟩ := except_map_eq_ok.1 h
  obtain ⟨hl, rfl⟩ := buildAck_eq_ok hb
  exact ⟨hl, rfl⟩

/-- What `DISPATCH` can do, by `CTX` and `RDRES`. -/
inductive ReadRow (s : State) : State → Prop
  | recvData (hc : s.ctx = .recvData) (hr : s.rdres = .ok) (hl : (s.byteAt .rxbuf 0).toNat ≤ s.cfg.maxLen) :
      ReadRow s (finish true .ack { s with rLen := s.byteAt .rxbuf 0 }.trailerTaken)
  | receiveFailed {e : ErrCode} (hc : s.ctx = .recvData ∨ s.ctx = .recvHandle) (he : s.rdres.cause = some e) :
      ReadRow s (raiseError e s)
  | handleEmpty (hc : s.ctx = .recvHandle) (hr : s.rdres = .ok) (hl : s.byteAt .rxbuf 0 = 0x00#8) :
      ReadRow s (raiseError .empty s)
  | handleShort (hc : s.ctx = .recvHandle) (hr : s.rdres = .ok) (hl : s.byteAt .rxbuf 0 = 0x01#8) :
      ReadRow s (raiseError .short s)
  | handleAck (hc : s.ctx = .recvHandle) (hr : s.rdres = .ok) (ha : isAck s.xSelf s.xPeer s = true) :
      ReadRow s (finish true .ack s.headTaken)
  | handleReply (hc : s.ctx = .recvHandle) (hr : s.rdres = .ok) (ha : isAck s.xSelf s.xPeer s = false)
      (hl : (s.byteAt .rxbuf 0).toNat ≤ s.cfg.maxLen) (hs : autoReply s = true)
      (ht : s.cfg.ackTagLen + 2 ≤ s.cfg.maxLen) :
      ReadRow s { s.headTaken.trailerTaken with
        txbuf := Mem.writeBytes s.txbuf 0 (ackFrame s.cfg (s.byteAt .rxbuf 2) (s.byteAt .rxbuf 1))
        ctx := .autoAck
        fsm := .txLoad }
  | handleData (hc : s.ctx = .recvHandle) (hr : s.rdres = .ok) (ha : isAck s.xSelf s.xPeer s = false)
      (hl : (s.byteAt .rxbuf 0).toNat ≤ s.cfg.maxLen) (hs : autoReply s = false) :
      ReadRow s (finish true .data s.headTaken.trailerTaken)
  | acked (hc : s.ctx = .sendPacket) (hr : s.rdres = .ok) (ha : isAck s.xSelf s.xPeer s = true) :
      ReadRow s (finish true .ack s)
  | badAck (hc : s.ctx = .sendPacket) (hr : s.rdres = .ok) (ha : isAck s.xSelf s.xPeer s = false) :
      ReadRow s { s with err := { s.err with att := .badAck }, rdres := .badAck, fsm := .rdRxgo }
  | retried {t : State} (hc : s.ctx = .sendPacket) (hr : s.rdres = .badAck) (h : retry s = .ok t) : ReadRow s t
  | waitFailed {t : State} {e : ErrCode} (hc : s.ctx = .sendPacket) (he : s.rdres.cause = some e)
      (h : failAttempt e s = .ok t) : ReadRow s t

theorem dispatchRecvData_row {s t : State} (hc : s.ctx = .recvData) (h : dispatchRecvData s = .ok t) :
    ReadRow s t := by
  unfold dispatchRecvData at h
  split at h
  · next hr =>
    obtain ⟨_, ht, rfl⟩ := except_map_eq_ok.1 h
    obtain ⟨hl, rfl⟩ := takeTrailer_eq_ok ht
    exact .recvData hc hr hl
  · next hr => cases h; exact .receiveFailed (.inl hc) (by rw [hr]; rfl)
  · next hr => cases h; exact .receiveFailed (.inl hc) (by rw [hr]; rfl)
  · next hr => cases h; exact .receiveFailed (.inl hc) (by rw [hr]; rfl)
  · cases h
  · cases h

theorem classify_eq (s : State) :
    classify s =
      if isAck s.xSelf s.xPeer s then .ok (finish true .ack s.headTaken)
      else (takeTrailer s.headTaken).bind fun u => if autoReply u then autoAck u else .ok (finish true .data u) := rfl

theorem classify_row {s t : State} (hc : s.ctx = .recvHandle) (hr : s.rdres = .ok) (h : classify s = .ok t) :
    ReadRow s t := by
  rw [classify_eq] at h
  split at h
  · next ha => cases h; exact .handleAck hc hr ha
  · next ha =>
    have ha : isAck s.xSelf s.xPeer s = false := by simpa using ha
    obtain ⟨_, ht, h⟩ := except_bind_eq_ok.1 h
    obtain ⟨hl, rfl⟩ := takeTrailer_eq_ok ht
    split at h
    · next hs =>
      obtain ⟨htag, rfl⟩ := autoAck_eq_ok h
      exact .handleReply hc hr ha hl hs htag
    · next hs => cases h; exact .handleData hc hr ha hl (Bool.eq_false_of_not_eq_true hs)

theorem dispatchRecvHandle_row {s t : State} (hc : s.ctx = .recvHandle) (h : dispatchRecvHandle s = .ok t) :
    ReadRow s t := by
  unfold dispatchRecvHandle at h
  split at h
  · next hr =>
    split at h
    · next hl => cases h; exact .handleEmpty hc hr hl
    · split at h
      · next hl => cases h; exact .handleShort hc hr hl
      · exact classify_row hc hr h
  · next hr => cases h; exact .receiveFailed (.inr hc) (by rw [hr]; rfl)
  · next hr => cases h; exact .receiveFailed (.inr hc) (by rw [hr]; rfl)
  · next hr => cases h; exact .receiveFailed (.inr hc) (by rw [hr]; rfl)
  · cases h
  · cases h

theorem dispatchSendPacket_row {s t : State} (hc : s.ctx = .sendPacket) (h : dispatchSendPacket s = .ok t) :
    ReadRow s t := by
  unfold dispatchSendPacket at h
  split at h
  · next hr =>
    split at h
    · next ha => cases h; exact .acked hc hr ha
    · next ha => cases h; exact .badAck hc hr (by simpa using ha)
  · next hr => exact .retried hc hr h
  · next hr => exact .waitFailed hc (by rw [hr]; rfl) h
  · next hr => exact .waitFailed hc (by rw [hr]; rfl) h
  · next hr => exact .waitFailed hc (by rw [hr]; rfl) h
  · cases h

theorem dispatch_row {s t : State} (h : dispatch s = .ok t) : ReadRow s t := by
  unfold dispatch at h
  split at h
  · next hc => exact dispatchRecvData_row hc h
  · next hc => exact dispatchRecvHandle_row hc h
  · next hc => exact dispatchSendPacket_row hc h
  all_goals cases h

/-! ## The end of a transmit -/

/-- Rows 11 to 17: what the `OK` of the `RX_GO` after a transmit can do. -/
inductive TransmitRow (s : State) : State → Prop
  | sent (hc : s.ctx = .sendData ∨ s.ctx = .sendAck) (hx : s.txres = true) : TransmitRow s (finish true .ack s)
  | underflow (hc : s.ctx = .sendData ∨ s.ctx = .sendAck) (hx : s.txres = false) :
      TransmitRow s (raiseError .txUnderflow s)
  | autoAck (hc : s.ctx = .autoAck) : TransmitRow s (finish true .data s)
  | broadcast (hc : s.ctx = .sendPacket) (hx : s.txres = true) (hb : isBroadcast s.cfg s.xPeer = true) :
      TransmitRow s (finish true .ack s)
  | wait (hc : s.ctx = .sendPacket) (hx : s.txres = true) (hb : isBroadcast s.cfg s.xPeer = false)
      (hT : 0 < s.cfg.ackTimeoutSteps) :
      TransmitRow s { s with waitCnt := 0, rdres := .none, fsm := .ackPoll }
  | noWait {t : State} (hc : s.ctx = .sendPacket) (hx : s.txres = true) (hb : isBroadcast s.cfg s.xPeer = false)
      (hT : s.cfg.ackTimeoutSteps = 0) (h : failAttempt .ackTimeout { s with waitCnt := 0 } = .ok t) :
      TransmitRow s t
  | failed {t : State} (hc : s.ctx = .sendPacket) (hx : s.txres = false) (h : retry s = .ok t) : TransmitRow s t

theorem transmitRow_of_plain {s t : State} (hc : s.ctx = .sendData ∨ s.ctx = .sendAck)
    (h : (if s.txres then finish true .ack s else raiseError .txUnderflow s) = t) : TransmitRow s t := by
  split at h
  · next hx => subst h; exact .sent hc hx
  · next hx => subst h; exact .underflow hc (by simpa using hx)

theorem afterTransmit_row {s t : State} (h : afterTransmit s = .ok t) : TransmitRow s t := by
  unfold afterTransmit at h
  split at h
  · next hc => exact transmitRow_of_plain (.inl hc) (Except.ok.inj h)
  · next hc => exact transmitRow_of_plain (.inr hc) (Except.ok.inj h)
  · next hc => cases h; exact .autoAck hc
  · next hc =>
    split at h
    · next hx =>
      split at h
      · next hb => cases h; exact .broadcast hc hx hb
      · next hb =>
        have hb : isBroadcast s.cfg s.xPeer = false := by simpa using hb
        split at h
        · next hT => cases h; exact .wait hc hx hb hT
        · next hT => exact .noWait hc hx hb (by omega) h
    · next hx => exact .failed hc (by simpa using hx) h
  all_goals cases h

/-! ## Responses -/

/-- Rows 8 to 14 and 22 to 35: what a response to the request of the state can do. -/
inductive ResponseRow (s : State) : Response → State → Prop
  | busTimeout : ResponseRow s .busTimeout (raiseError .busTimeout s)
  | txLoad (hf : s.fsm = .txLoad) : ResponseRow s .ok { s with fsm := .txGo }
  | txRxgo {t : State} (hf : s.fsm = .txRxgo) (h : TransmitRow s t) : ResponseRow s .ok t
  | rdFlush (hf : s.fsm = .rdFlush) : ResponseRow s .ok { s with fsm := .rdRxgo }
  | rdRxgo {t : State} (hf : s.fsm = .rdRxgo) (h : ReadRow s t) : ResponseRow s .ok t
  | addrWr (hf : s.fsm = .addrWr) : ResponseRow s .ok (finish true .ack { s with ownAddr := cwA s.cmdw })
  | txOk (hf : s.fsm = .txGo) : ResponseRow s .txOk { s with txres := true, fsm := .txRxgo }
  | txUnderflow (hf : s.fsm = .txGo) :
      ResponseRow s .txUnderflow { s with txres := false, err := { s.err with att := .txUnderflow }, fsm := .txRxgo }
  | overflow {b : Byte} (hf : s.fsm = .rdStatus) (hb : statusOvf b = true) :
      ResponseRow s (.byte b) { s with rdres := .overflow, fsm := .rdFlush }
  | empty {b : Byte} {t : State} (hf : s.fsm = .rdStatus) (hb : statusOvf b = false) (hn : statusCnt b = 0#7)
      (h : ReadRow { s with rdres := .empty } t) : ResponseRow s (.byte b) t
  | available {b : Byte} (hf : s.fsm = .rdStatus) (hb : statusOvf b = false) (hn : statusCnt b ≠ 0#7) :
      ResponseRow s (.byte b) { s with fsm := .rdLen }
  | oversize {b : Byte} (hf : s.fsm = .rdLen) (hl : s.cfg.maxLen < b.toNat) :
      ResponseRow s (.bytes [b])
        { s with rxbuf := Mem.writeBytes s.rxbuf 0 [b], rdres := .oversize, fsm := .rdFlush }
  | noPayload (hf : s.fsm = .rdLen) :
      ResponseRow s (.bytes [0x00#8]) { s with rxbuf := Mem.writeBytes s.rxbuf 0 [0x00#8], fsm := .rdTrailer }
  | payload {b : Byte} (hf : s.fsm = .rdLen) (hl : b.toNat ≤ s.cfg.maxLen) (hb : b ≠ 0x00#8) :
      ResponseRow s (.bytes [b]) { s with rxbuf := Mem.writeBytes s.rxbuf 0 [b], fsm := .rdBody }
  | rdBody {bs : List Byte} (hf : s.fsm = .rdBody) (hl : 1 + bs.length ≤ s.cfg.maxLen + 3) :
      ResponseRow s (.bytes bs) { s with rxbuf := Mem.writeBytes s.rxbuf 1 bs, fsm := .rdTrailer }
  | rdTrailer {rssi lqi : Byte} {t : State} (hf : s.fsm = .rdTrailer)
      (hl : (s.byteAt .rxbuf 0).toNat ≤ s.cfg.maxLen)
      (h : ReadRow { s with
        rxbuf := Mem.writeBytes s.rxbuf ((s.byteAt .rxbuf 0).toNat + 1) [rssi, lqi], rdres := .ok } t) :
      ResponseRow s (.bytes [rssi, lqi]) t

theorem onStatus_row {b : Byte} {s t : State} (hf : s.fsm = .rdStatus) (h : onStatus b s = .ok t) :
    ResponseRow s (.byte b) t := by
  unfold onStatus at h
  split at h
  · next hb => cases h; exact .overflow hf hb
  · next hb =>
    have hb : statusOvf b = false := by simpa using hb
    split at h
    · next hn => exact .empty hf hb hn (dispatch_row h)
    · next hn => cases h; exact .available hf hb hn

theorem onLength_row {b : Byte} {s t : State} (hf : s.fsm = .rdLen) (h : onLength b s = .ok t) :
    ResponseRow s (.bytes [b]) t := by
  unfold onLength at h
  split at h
  · next hl => obtain ⟨-, rfl⟩ := memWrite_eq_ok.1 h; exact .oversize hf hl
  · next hl =>
    split at h
    · next hb => subst hb; obtain ⟨-, rfl⟩ := memWrite_eq_ok.1 h; exact .noPayload hf
    · next hb => obtain ⟨-, rfl⟩ := memWrite_eq_ok.1 h; exact .payload hf (by omega) hb

theorem onBody_row {bs : List Byte} {s t : State} (hf : s.fsm = .rdBody) (h : onBody bs s = .ok t) :
    ResponseRow s (.bytes bs) t := by
  obtain ⟨hl, rfl⟩ := memWrite_eq_ok.1 h
  exact .rdBody hf hl

theorem onTrailer_row {rssi lqi : Byte} {s t : State} (hf : s.fsm = .rdTrailer) (h : onTrailer rssi lqi s = .ok t) :
    ResponseRow s (.bytes [rssi, lqi]) t := by
  obtain ⟨_, hw, h⟩ := except_bind_eq_ok.1 h
  obtain ⟨hl, rfl⟩ := memWrite_eq_ok.1 hw
  simp only [size_rxbuf, List.length_cons, List.length_nil] at hl
  exact .rdTrailer hf (by omega) (dispatch_row h)

theorem onResponse_row {r : Response} {s t : State} (h : onResponse r s = .ok t) : ResponseRow s r t := by
  unfold onResponse at h
  split at h
  · cases h; exact .busTimeout
  · split at h
    · next hf => cases h; exact .txLoad hf
    · next hf => exact .txRxgo hf (afterTransmit_row h)
    · next hf => cases h; exact .rdFlush hf
    · next hf => exact .rdRxgo hf (dispatch_row h)
    · next hf => cases h; exact .addrWr hf
    · cases h
  · split at h
    · next hf => cases h; exact .txOk hf
    · cases h
  · split at h
    · next hf => cases h; exact .txUnderflow hf
    · cases h
  · split at h
    · next hf => exact onStatus_row hf h
    · cases h
  · split at h
    · next hf => exact onLength_row hf h
    · next hf => exact onBody_row hf h
    · next hf => exact onTrailer_row hf h
    · cases h

/-! ## Commands -/

/-- What an instruction can do. A command is ignored, refused, ended in its accepting step, or begun (42_system.md R155,
R156); every other row of the opcode table reaches the radio's side. -/
inductive ExecRow (s : State) : Instr → State → Prop
  | ignored {i : Instr} {w : CmdWord} (ha : s.canAccept = false) (hw : encode s.cfg i = .word w) : ExecRow s i s
  | refused {i : Instr} {w : CmdWord} (ha : s.canAccept = true) (hw : encode s.cfg i = .word w) (e : ErrCode) :
      ExecRow s i (s.refused w e (raiseRxCode s.cfg.linkLayer w e))
  | sendData {n : Byte} {u : BitVec 24} (ha : s.canAccept = true) (hr : s.ports.initOk = true)
      (hn : n.toNat ≤ s.cfg.maxLen) :
      ExecRow s (.sendData n u) ({ s with
        xN := n
        txbuf := Mem.writeBytes s.txbuf 0 (rawFrame (Mem.readBytes s.pay 0 n.toNat)) }.started
          (wordSendData n u) .sendData .txLoad)
  | sendPacket {self dest retries n : Byte} (ha : s.canAccept = true) (hr : s.ports.initOk = true)
      (hl : s.cfg.linkLayer = true) (hn : n.toNat + 2 ≤ s.cfg.maxLen) :
      ExecRow s (.sendPacket self dest retries n) ({ s with
        xSelf := self, xPeer := dest, xMaxRetry := retries, xN := n, retryCnt := 0x00#8
        txbuf := Mem.writeBytes s.txbuf 0 (addressedFrame dest self (Mem.readBytes s.pay 0 n.toNat)) }.started
          (wordSendPacket self dest retries n) .sendPacket .txLoad)
  | sendAck {self peer : Byte} {u : BitVec 16} (ha : s.canAccept = true) (hr : s.ports.initOk = true)
      (hl : s.cfg.linkLayer = true) (ht : s.cfg.ackTagLen + 2 ≤ s.cfg.maxLen) :
      ExecRow s (.sendAck self peer u) ({ s with
        xSelf := self, xPeer := peer
        txbuf := Mem.writeBytes s.txbuf 0 (ackFrame s.cfg peer self) }.started
          (wordSendAck self peer u) .sendAck .txLoad)
  | recvData {u : BitVec 32} (ha : s.canAccept = true) (hr : s.ports.initOk = true) :
      ExecRow s (.recvData u) ({ s with rLen := 0x00#8, rdres := .none }.started
        (wordRecvData u) .recvData .rdStatus)
  | recvHandle {self peer : Byte} {u : BitVec 16} (ha : s.canAccept = true) (hr : s.ports.initOk = true)
      (hl : s.cfg.linkLayer = true) :
      ExecRow s (.recvHandle self peer u)
        ({ s with xSelf := self, xPeer := peer, rLen := 0x00#8, rdres := .none }.started
          (wordRecvHandle self peer u) .recvHandle .rdStatus)
  | pktAvail {u : BitVec 32} (ha : s.canAccept = true) :
      ExecRow s (.pktAvail u)
        (({ s with rxFlag := (pollTake s).rxFlag }.completed (wordPktAvail u) (pollReady s)).log (.poll (pollReady s)))
  | setAddr {a : Byte} {u : BitVec 24} (ha : s.canAccept = true) (hr : s.ports.initOk = true) :
      ExecRow s (.setAddr a u) (s.started (wordSetAddr a u) .setAddr .addrWr)
  | wrPay {i v : Byte} {u : BitVec 16} (ha : s.canAccept = true) (hi : i.toNat < s.cfg.maxLen) :
      ExecRow s (.wrPay i v u)
        ({ s with pay := Mem.writeBytes s.pay i.toNat [v] }.completed (wordWrPay i v u) true)
  | rdRx {i : Byte} {u : BitVec 24} (ha : s.canAccept = true) (hi : i.toNat ≤ s.cfg.maxLen + 2) :
      ExecRow s (.rdRx i u) ({ s with rdData := s.byteAt .rxbuf i.toNat }.completed (wordRdRx i u) true)
  | received {i : Instr} {fmt : ByteFormat} {frame bs : List Byte} (hi : encode s.cfg i = .bytes fmt frame)
      (hb : frame <+: bs) : ExecRow s i (receive bs s)
  | statusAnswered {o : Bool} {c : BitVec 7} {t : State} (hr : s.ports.rst = false) (hf : s.fsm = .rdStatus)
      (h : ResponseRow (s.log (.request .rxStatus (.byte (statusByteOf o c)))) (.byte (statusByteOf o c)) t) :
      ExecRow s (.rxStatusByte o c) t
  | statusUnasked {o : Bool} {c : BitVec 7} (h : s.ports.rst = true ∨ s.fsm ≠ .rdStatus) :
      ExecRow s (.rxStatusByte o c) s

section
variable {i : Instr} {w : CmdWord} {body : State → Except Fault State} {s t : State}

/-- The rows of a command are those of its body on the accepted state, and the one of a command that is ignored. -/
theorem execRow_of_begin (hw : encode s.cfg i = .word w)
    (hb : s.canAccept = true → body (accept w s) = .ok t → ExecRow s i t) (h : begin w body s = .next t) :
    ExecRow s i t := by
  obtain ⟨ha, rfl⟩ | ⟨ha, h⟩ := begin_cases h
  · exact .ignored ha hw
  · exact hb ha h

variable (ha : s.canAccept = true) (hw : encode s.cfg i = .word w)
include ha hw

theorem execRow_of_requireLink (hb : s.cfg.linkLayer = true → body (accept w s) = .ok t → ExecRow s i t)
    (h : requireLink body (accept w s) = .ok t) : ExecRow s i t := by
  obtain ⟨-, rfl⟩ | ⟨hl, h⟩ := requireLink_cases h
  · exact .refused ha hw .illegalCmd
  · exact hb hl h

theorem execRow_of_requireReady (hb : s.ports.initOk = true → body (accept w s) = .ok t → ExecRow s i t)
    (h : requireReady body (accept w s) = .ok t) : ExecRow s i t := by
  obtain ⟨-, rfl⟩ | ⟨hr, h⟩ := requireReady_cases h
  · exact .refused ha hw .notReady
  · exact hb hr h

theorem execRow_of_requireRange {inRange : Bool}
    (hb : inRange = true → body (accept w s) = .ok t → ExecRow s i t)
    (h : requireRange inRange body (accept w s) = .ok t) : ExecRow s i t := by
  obtain ⟨-, rfl⟩ | ⟨hn, h⟩ := requireRange_cases h
  · exact .refused ha hw .badOperand
  · exact hb hn h

end

theorem execSendData_row {n : Byte} {u : BitVec 24} {s t : State} (h : execSendData n u s = .next t) :
    ExecRow s (.sendData n u) t := by
  refine execRow_of_begin rfl (fun ha => ?_) h
  refine execRow_of_requireReady ha rfl fun hr => execRow_of_requireRange ha rfl fun hn h => ?_
  obtain ⟨_, hb, rfl⟩ := except_map_eq_ok.1 h
  obtain ⟨hn, rfl⟩ := buildRaw_eq_ok hb
  exact .sendData ha hr hn

theorem execSendPacket_row {self dest retries n : Byte} {s t : State}
    (h : execSendPacket self dest retries n s = .next t) : ExecRow s (.sendPacket self dest retries n) t := by
  refine execRow_of_begin rfl (fun ha => ?_) h
  refine execRow_of_requireLink ha rfl fun hl => execRow_of_requireReady ha rfl fun hr =>
    execRow_of_requireRange ha rfl fun hn h => ?_
  obtain ⟨_, hb, rfl⟩ := except_map_eq_ok.1 h
  obtain ⟨hn, rfl⟩ := buildAddressed_eq_ok hb
  exact .sendPacket ha hr hl hn

theorem execSendAck_row {self peer : Byte} {u : BitVec 16} {s t : State} (h : execSendAck self peer u s = .next t) :
    ExecRow s (.sendAck self peer u) t := by
  refine execRow_of_begin rfl (fun ha => ?_) h
  refine execRow_of_requireLink ha rfl fun hl => execRow_of_requireReady ha rfl fun hr h => ?_
  obtain ⟨_, hb, rfl⟩ := except_map_eq_ok.1 h
  obtain ⟨ht, rfl⟩ := buildAck_eq_ok hb
  exact .sendAck ha hr hl ht

theorem execRecvData_row {u : BitVec 32} {s t : State} (h : execRecvData u s = .next t) :
    ExecRow s (.recvData u) t := by
  refine execRow_of_begin rfl (fun ha => execRow_of_requireReady ha rfl fun hr h => ?_) h
  cases h
  exact .recvData ha hr

theorem execRecvHandle_row {self peer : Byte} {u : BitVec 16} {s t : State}
    (h : execRecvHandle self peer u s = .next t) : ExecRow s (.recvHandle self peer u) t := by
  refine execRow_of_begin rfl (fun ha => ?_) h
  refine execRow_of_requireLink ha rfl fun hl => execRow_of_requireReady ha rfl fun hr h => ?_
  cases h
  exact .recvHandle ha hr hl

theorem pollTake_accept (w : CmdWord) (s : State) :
    pollTake (accept w s) = accept w { s with rxFlag := (pollTake s).rxFlag } := by
  unfold pollTake
  simp only [accept_cfg]
  split <;> rfl

theorem execPktAvail_row {u : BitVec 32} {s t : State} (h : execPktAvail u s = .next t) :
    ExecRow s (.pktAvail u) t := by
  refine execRow_of_begin rfl (fun ha h => ?_) h
  obtain rfl := Except.ok.inj h
  rw [poll, pollTake_accept]
  exact .pktAvail ha

theorem execSetAddr_row {a : Byte} {u : BitVec 24} {s t : State} (h : execSetAddr a u s = .next t) :
    ExecRow s (.setAddr a u) t := by
  refine execRow_of_begin rfl (fun ha => execRow_of_requireReady ha rfl fun hr h => ?_) h
  cases h
  exact .setAddr ha hr

theorem execWrPay_row {i v : Byte} {u : BitVec 16} {s t : State} (h : execWrPay i v u s = .next t) :
    ExecRow s (.wrPay i v u) t := by
  refine execRow_of_begin rfl (fun ha => execRow_of_requireRange ha rfl fun hi h => ?_) h
  obtain ⟨_, hm, rfl⟩ := except_map_eq_ok.1 h
  obtain ⟨-, rfl⟩ := memWrite_eq_ok.1 hm
  exact .wrPay ha (wrPayInRange_iff.1 hi)

theorem execRdRx_row {i : Byte} {u : BitVec 24} {s t : State} (h : execRdRx i u s = .next t) :
    ExecRow s (.rdRx i u) t := by
  refine execRow_of_begin rfl (fun ha => execRow_of_requireRange ha rfl fun hi h => ?_) h
  obtain ⟨_, -, rfl⟩ := except_map_eq_ok.1 h
  exact .rdRx ha (rdRxInRange_iff.1 hi)

theorem execIllegal_row {w : CmdWord} {s t : State} (h : execIllegal w s = .next t) : ExecRow s (.illegal w) t := by
  refine execRow_of_begin rfl (fun ha h => ?_) h
  cases h
  exact .refused ha rfl .illegalCmd

theorem execRxStatusByte_row {o : Bool} {c : BitVec 7} {s t : State} (h : execRxStatusByte o c s = .next t) :
    ExecRow s (.rxStatusByte o c) t := by
  unfold execRxStatusByte at h
  split at h
  · next hc =>
    simp only [Bool.and_eq_true, Bool.not_eq_true', beq_iff_eq] at hc
    exact .statusAnswered hc.1 hc.2 (onResponse_row (outcome_eq_next.1 h))
  · next hc =>
    cases h
    refine .statusUnasked ?_
    by_contra hn
    simp_all

theorem exec_row {i : Instr} {s t : State} (h : exec i s = .next t) : ExecRow s i t := by
  cases i with
  | sendData n u => exact execSendData_row h
  | sendPacket self dest retries n => exact execSendPacket_row h
  | sendAck self peer u => exact execSendAck_row h
  | recvData u => exact execRecvData_row h
  | recvHandle self peer u => exact execRecvHandle_row h
  | pktAvail u => exact execPktAvail_row h
  | setAddr a u => exact execSetAddr_row h
  | wrPay i v u => exact execWrPay_row h
  | rdRx i u => exact execRdRx_row h
  | illegal w => exact execIllegal_row h
  | frameRaw d => cases h; exact .received rfl (List.prefix_append _ _)
  | frameAddressed dest src d => cases h; exact .received rfl (List.prefix_append _ _)
  | frameAck dest src => cases h; exact .received rfl (List.prefix_append _ _)
  | record p r l => cases h; exact .received rfl List.prefix_rfl
  | rxStatusByte o c => exact execRxStatusByte_row h

/-! # No step changes a parameter (00_scope.md R6, 10_state.md R28) -/

theorem startAttempt_cfg {s t : State} (h : startAttempt s = .ok t) : t.cfg = s.cfg := by
  obtain ⟨-, rfl⟩ := startAttempt_eq_ok h; rfl

theorem retry_cfg {s t : State} (h : retry s = .ok t) : t.cfg = s.cfg := by
  obtain ⟨-, -, rfl⟩ | ⟨-, -, h⟩ | ⟨-, rfl⟩ := retry_cases h
  · rfl
  · rw [startAttempt_cfg h]
  · rfl

theorem failAttempt_cfg {e : ErrCode} {s t : State} (h : failAttempt e s = .ok t) : t.cfg = s.cfg := by
  rw [retry_cfg h]

theorem ReadRow.cfg_eq {s t : State} (h : ReadRow s t) : t.cfg = s.cfg := by
  cases h with
  | retried _ _ h => rw [retry_cfg h]
  | waitFailed _ _ h => rw [failAttempt_cfg h]
  | _ => rfl

theorem TransmitRow.cfg_eq {s t : State} (h : TransmitRow s t) : t.cfg = s.cfg := by
  cases h with
  | noWait _ _ _ _ h => rw [failAttempt_cfg h]
  | failed _ _ h => rw [retry_cfg h]
  | _ => rfl

theorem ResponseRow.cfg_eq {r : Response} {s t : State} (h : ResponseRow s r t) : t.cfg = s.cfg := by
  cases h with
  | txRxgo _ h => exact h.cfg_eq
  | rdRxgo _ h => exact h.cfg_eq
  | empty _ _ _ h => exact h.cfg_eq
  | rdTrailer _ _ h => exact h.cfg_eq
  | _ => rfl

theorem ExecRow.cfg_eq {i : Instr} {s t : State} (h : ExecRow s i t) : t.cfg = s.cfg := by
  cases h with
  | statusAnswered _ _ h => exact h.cfg_eq
  | _ => rfl

theorem onAnswer_cfg {r : Reply} {s t : State} (h : onAnswer r s = .ok t) : t.cfg = s.cfg := by
  obtain rfl | ⟨q, resp, chip, -, -, -, h⟩ := onAnswer_cases h
  · rfl
  · exact (onResponse_row h).cfg_eq

theorem onTick_cfg {s t : State} (h : onTick s = .ok t) : t.cfg = s.cfg := by
  obtain ⟨-, rfl⟩ | ⟨-, -, -, rfl⟩ | ⟨-, -, -, h⟩ | ⟨-, -, -, rfl⟩ | ⟨-, -, -, h⟩ := onTick_cases h
  · rfl
  · rfl
  · rw [failAttempt_cfg h]; rfl
  · rfl
  · rw [startAttempt_cfg h]; rfl

@[simp] theorem setRst_cfg (b : Bool) (s : State) : (setRst b s).cfg = s.cfg := by cases b <;> rfl

@[simp] theorem setDataReady_cfg (b : Bool) (s : State) : (setDataReady b s).cfg = s.cfg := by
  unfold setDataReady; simp only; split <;> rfl

@[simp] theorem thenPoll_cfg (s t : State) : (s.thenPoll t).cfg = t.cfg := by rw [thenPoll_eq]

theorem react_cfg {s t : State} (h : react s = .next t) : t.cfg = s.cfg := by
  obtain ⟨c, i, -, -, h⟩ | ⟨c, e, -, -, rfl⟩ | ⟨r, -, h⟩ | ⟨-, rfl⟩ | ⟨-, h⟩ | ⟨b, -, rfl⟩ | ⟨b, -, rfl⟩ |
    ⟨b, -, rfl⟩ | ⟨bs, o, -, rfl⟩ | ⟨-, rfl⟩ := react_cases h
  · exact (exec_row h).cfg_eq
  · rfl
  · rw [onAnswer_cfg h]; rfl
  · rfl
  · rw [onTick_cfg h]; rfl
  · simp
  · rfl
  · simp
  · rfl
  · rfl

theorem step_cfg {s t : State} (h : step s = .next t) : t.cfg = s.cfg := by
  obtain ⟨u, hu, rfl⟩ := step_eq_next.1 h
  rw [thenPoll_cfg, react_cfg hu]

/-- Settles O55: every row of the transition table and every event keeps the field `cfg`. -/
theorem parametersNeverChange : Obligations.ParametersNeverChange := fun _ _ h => step_cfg h

/-! # The invariant

`State.Inv` is cut by the busy bit: `State.Standing` is what every state keeps, `State.Running` what a command in
progress keeps between two rows, and `State.Awaiting` what its present `FSM` relies on. The three are definitions that
unfold, so an update of a field that they do not speak of keeps them by definition. -/

/-! ## The parts of the invariant -/

/-- What the invariant says of every state, busy or idle: parameters, buffers, and the two bounded counters. -/
def State.Standing (s : State) : Prop :=
  s.cfg.wf = true ∧
  (∀ sp, Mem.wf (s.buf sp) = true ∧ Mem.within (sp.size s.cfg) (s.buf sp) = true) ∧
  s.waitCnt ≤ max s.cfg.ackTimeoutSteps s.cfg.backoffTicks ∧
  s.rxFlag ≤ s.cfg.rxFlagDepth

/-- What a command in progress keeps from row to row: no result yet, `CMDW` holds the command of `CTX`, and a
`SEND_PACKET` has a frame that fits and an attempt left. -/
def State.Running (s : State) : Prop :=
  s.Standing ∧ s.ports.rst = false ∧ s.status.busy = true ∧ s.ResultsClear ∧
  (∀ op, s.ctx.opcode = some op → cwOp s.cmdw = op ∧ opAssigned s.cfg.linkLayer op = true) ∧
  (s.ctx = .sendPacket → s.xN.toNat + 2 ≤ s.cfg.maxLen ∧ s.retryCnt.toNat < s.budget)

/-- What the present state of the sequencer relies on; no command in progress stands in `S_IDLE`. -/
def State.Awaiting (s : State) : Prop :=
  match s.fsm with
  | .idle => False
  | .txLoad => (s.byteAt .txbuf 0).toNat ≤ s.cfg.maxLen
  | .rdBody => 1 ≤ (s.byteAt .rxbuf 0).toNat ∧ (s.byteAt .rxbuf 0).toNat ≤ s.cfg.maxLen
  | .rdTrailer => (s.byteAt .rxbuf 0).toNat ≤ s.cfg.maxLen
  | .rdFlush => s.rdres = .overflow ∨ s.rdres = .oversize
  | .rdRxgo => s.rdres = .overflow ∨ s.rdres = .oversize ∨ (s.rdres = .badAck ∧ s.ctx = .sendPacket)
  | .ackPoll | .ackTick => s.waitCnt < s.cfg.ackTimeoutSteps
  | .backoff => s.waitCnt < s.cfg.backoffTicks
  | .txGo | .txRxgo | .rdStatus | .rdLen | .addrWr => True

theorem State.Inv.standing {s : State} (h : s.Inv) : s.Standing :=
  ⟨h.params, fun sp => by cases sp; exacts [h.payForm, h.txForm, h.rxForm], h.waitBound, h.flagBound⟩

theorem State.Inv.running {s : State} (h : s.Inv) (hf : s.fsm ≠ .idle) : s.Running :=
  have hb := h.busy.2 hf
  ⟨h.standing, Bool.eq_false_of_not_eq_true fun hr => hf (h.held hr), hb, h.results hb, h.command,
    fun hc => ⟨h.dataLen hc, h.attempts hc⟩⟩

theorem State.Running.standing {s : State} (h : s.Running) : s.Standing := h.1

theorem State.Running.released {s : State} (h : s.Running) : s.ports.rst = false := h.2.1

/-- Outside `S_IDLE` a command is in progress, for a `CTX` that goes with `FSM`. -/
theorem State.Inv.runningAt {s : State} {f : Fsm} (h : s.Inv) (hf : s.fsm = f) (hne : f ≠ .idle := by decide) :
    s.Running ∧ pairReached f s.ctx = true := by
  subst hf
  exact ⟨h.running hne, h.pair⟩

/-- An idle block meets the invariant as soon as it stands. -/
theorem inv_of_idle {s : State} (hs : s.Standing) (hf : s.fsm = .idle) (hc : s.ctx = .none)
    (hb : s.status.busy = false) : s.Inv := by
  obtain ⟨hcfg, hbuf, hwait, hflag⟩ := hs
  constructor
  case params => exact hcfg
  case payForm => exact hbuf .pay
  case txForm => exact hbuf .txbuf
  case rxForm => exact hbuf .rxbuf
  case waitBound => exact hwait
  case flagBound => exact hflag
  all_goals simp [hf, hc, hb, pairReached, Ctx.opcode]

/-- A command in progress meets the invariant when its `FSM` goes with its `CTX` and has what it relies on. -/
theorem inv_of_running {s : State} (hr : s.Running) (hp : pairReached s.fsm s.ctx = true) (ha : s.Awaiting) :
    s.Inv := by
  obtain ⟨⟨hcfg, hbuf, hwait, hflag⟩, hrst, hbusy, hres, hcmd, hpkt⟩ := hr
  have hidle : s.fsm ≠ .idle := fun hf => by simp [State.Awaiting, hf] at ha
  constructor
  case params => exact hcfg
  case payForm => exact hbuf .pay
  case txForm => exact hbuf .txbuf
  case rxForm => exact hbuf .rxbuf
  case pair => exact hp
  case busy => simp [hbusy, hidle]
  case results => exact fun _ => hres
  case held => simp [hrst]
  case command => exact hcmd
  case dataLen => exact fun hc => (hpkt hc).1
  case attempts => exact fun hc => (hpkt hc).2
  case waitBound => exact hwait
  case flagBound => exact hflag
  case ackWait => rintro (hf | hf) <;> simpa [State.Awaiting, hf] using ha
  all_goals exact fun hf => by simpa [State.Awaiting, hf] using ha

/-! ## What keeps the parts -/

theorem setBuf_buf (s : State) (sp sp' : Space) (m : Mem) :
    (s.setBuf sp m).buf sp' = if sp' = sp then m else s.buf sp' := by
  cases sp <;> cases sp' <;> rfl

theorem State.Standing.writeBytes {s : State} {sp : Space} {a : Nat} {bs : List Byte} (h : s.Standing)
    (hl : a + bs.length ≤ sp.size s.cfg) : (s.setBuf sp (Mem.writeBytes (s.buf sp) a bs)).Standing := by
  obtain ⟨hcfg, hbuf, hwait, hflag⟩ := h
  refine ⟨by simpa using hcfg, fun sp' => ?_, by cases sp <;> exact hwait, by cases sp <;> exact hflag⟩
  rw [setBuf_cfg, setBuf_buf]
  obtain ⟨hwf, hin⟩ := hbuf sp
  split
  · next hsp => subst hsp; exact ⟨Mem.wf_writeBytes bs a hwf, Mem.within_writeBytes bs a hl hin⟩
  · exact hbuf sp'

/-- The wait counter takes a value in its range. -/
theorem State.Running.waiting {s : State} {n : Nat} (h : s.Running)
    (hn : n ≤ max s.cfg.ackTimeoutSteps s.cfg.backoffTicks) : { s with waitCnt := n }.Running := by
  obtain ⟨⟨hcfg, hbuf, -, hflag⟩, hrest⟩ := h
  exact ⟨⟨hcfg, hbuf, hn, hflag⟩, hrest⟩

theorem State.Running.flagged {s : State} {n : Nat} (h : s.Running) (hn : n ≤ s.cfg.rxFlagDepth) :
    { s with rxFlag := n }.Running := by
  obtain ⟨⟨hcfg, hbuf, hwait, -⟩, hrest⟩ := h
  exact ⟨⟨hcfg, hbuf, hwait, hn⟩, hrest⟩

/-- A failed attempt is counted while another one is left (41_link.md R125). -/
theorem State.Running.counted {s : State} (h : s.Running) (hlt : (s.retryCnt + 1).toNat < s.xMaxRetry.toNat) :
    { s with retryCnt := s.retryCnt + 1, waitCnt := 0 }.Running := by
  obtain ⟨hs, hrst, hbusy, hres, hcmd, hpkt⟩ := h.waiting (Nat.zero_le _)
  exact ⟨hs, hrst, hbusy, hres, hcmd, fun hc => ⟨(hpkt hc).1, lt_max_of_lt_left hlt⟩⟩

theorem State.Running.rxWritten {s : State} {a : Nat} {bs : List Byte} (h : s.Running)
    (hl : a + bs.length ≤ s.cfg.maxLen + 3) : { s with rxbuf := Mem.writeBytes s.rxbuf a bs }.Running := by
  obtain ⟨hs, hrest⟩ := h
  exact ⟨hs.writeBytes (sp := .rxbuf) hl, hrest⟩

theorem State.Running.txWritten {s : State} {bs : List Byte} (h : s.Running)
    (hl : bs.length ≤ s.cfg.maxLen) : { s with txbuf := Mem.writeBytes s.txbuf 0 (rawFrame bs) }.Running := by
  obtain ⟨hs, hrest⟩ := h
  exact ⟨hs.writeBytes (sp := .txbuf) (by simp; omega), hrest⟩

theorem read_writeBytes_head {m : Mem} (b : Byte) (bs : List Byte) (h : Mem.wf m = true) :
    Mem.read (Mem.writeBytes m 0 (b :: bs)) 0 = b :=
  Mem.read_writeBytes_inside (b :: bs) (a := 0) (i := 0) (by simp) h

theorem lenByte_toNat_le (n : Nat) : (lenByte n).toNat ≤ n := by
  simp only [lenByte, BitVec.toNat_ofNat]
  exact Nat.mod_le _ _

/-- The frame in `TXBUF` goes to the transmitter: `S_TX_LOAD` for the command of any `CTX` that transmits. -/
theorem State.Running.transmits {s : State} {bs : List Byte} (h : s.Running) (hp : pairReached .txLoad s.ctx = true)
    (hl : bs.length ≤ s.cfg.maxLen) :
    { s with txbuf := Mem.writeBytes s.txbuf 0 (rawFrame bs), fsm := .txLoad }.Inv := by
  refine inv_of_running (h.txWritten hl) hp ?_
  obtain ⟨⟨-, hbuf, -, -⟩, -⟩ := h
  have hhead : Mem.read (Mem.writeBytes s.txbuf 0 (rawFrame bs)) 0 = lenByte bs.length :=
    read_writeBytes_head _ bs (hbuf .txbuf).1
  change (Mem.read (Mem.writeBytes s.txbuf 0 (rawFrame bs)) 0).toNat ≤ s.cfg.maxLen
  rw [hhead]
  exact (lenByte_toNat_le _).trans hl

/-! ## The ends of a command -/

theorem finish_inv {ok : Bool} {rx : RxCode} {s : State} (h : s.Standing) : (finish ok rx s).Inv :=
  inv_of_idle h rfl rfl rfl

theorem raiseError_inv {e : ErrCode} {s : State} (h : s.Standing) : (raiseError e s).Inv :=
  inv_of_idle h rfl rfl rfl

/-! ## The rows of a command in progress -/

section
variable {s t : State}

theorem startAttempt_inv (h : startAttempt s = .ok t) (hr : s.Running) (hc : s.ctx = .sendPacket) : t.Inv := by
  obtain ⟨hn, rfl⟩ := startAttempt_eq_ok h
  exact hr.transmits (bs := s.xPeer :: s.xSelf :: Mem.readBytes s.pay 0 s.xN.toNat) (by rw [hc]; rfl)
    (by simp; omega)

theorem retry_inv (h : retry s = .ok t) (hr : s.Running) (hc : s.ctx = .sendPacket) : t.Inv := by
  obtain ⟨hlt, hB, rfl⟩ | ⟨hlt, -, h⟩ | ⟨-, rfl⟩ := retry_cases h
  · exact inv_of_running (hr.counted hlt) (by simp [hc, pairReached]) (Nat.pos_of_ne_zero hB)
  · exact startAttempt_inv h (hr.counted hlt) hc
  · exact raiseError_inv hr.standing

theorem failAttempt_inv {e : ErrCode} (h : failAttempt e s = .ok t) (hr : s.Running) (hc : s.ctx = .sendPacket) :
    t.Inv :=
  retry_inv (s := { s with err := { s.err with att := e } }) h hr hc

theorem TransmitRow.keeps_inv (h : TransmitRow s t) (hr : s.Running) : t.Inv := by
  cases h with
  | sent => exact finish_inv hr.standing
  | underflow => exact raiseError_inv hr.standing
  | autoAck => exact finish_inv hr.standing
  | broadcast => exact finish_inv hr.standing
  | wait hc _ _ hT => exact inv_of_running (hr.waiting (Nat.zero_le _)) (by simp [hc, pairReached]) hT
  | noWait hc _ _ _ h => exact failAttempt_inv h (hr.waiting (Nat.zero_le _)) hc
  | failed hc _ h => exact retry_inv h hr hc

/-- The auto-reply keeps the command: both contexts stand for `RECV_HANDLE` (10_state.md R17). -/
theorem State.Running.autoAck (hr : s.Running) (hc : s.ctx = .recvHandle) : { s with ctx := .autoAck }.Running := by
  obtain ⟨hs, hrst, hbusy, hres, hcmd, -⟩ := hr
  rw [hc] at hcmd
  exact ⟨hs, hrst, hbusy, hres, hcmd, nofun⟩

theorem ReadRow.keeps_inv (h : ReadRow s t) (hr : s.Running) : t.Inv := by
  cases h with
  | recvData => exact finish_inv hr.standing
  | receiveFailed => exact raiseError_inv hr.standing
  | handleEmpty => exact raiseError_inv hr.standing
  | handleShort => exact raiseError_inv hr.standing
  | handleAck => exact finish_inv hr.standing
  | handleReply hc _ _ _ _ ht =>
    exact State.Running.transmits (s := { s.headTaken.trailerTaken with ctx := .autoAck })
      (bs := s.byteAt .rxbuf 2 :: s.byteAt .rxbuf 1 :: s.cfg.ackTag) (hr.autoAck hc) rfl ht
  | handleData => exact finish_inv hr.standing
  | acked => exact finish_inv hr.standing
  | badAck hc => exact inv_of_running hr (by simp [hc, pairReached]) (.inr (.inr ⟨rfl, hc⟩))
  | retried hc _ h => exact retry_inv h hr hc
  | waitFailed hc _ h => exact failAttempt_inv h hr hc

/-- The length byte that a read has stored is the one that `RXBUF` begins with. -/
theorem State.Running.rxLength {b : Byte} (hr : s.Running) : Mem.read (Mem.writeBytes s.rxbuf 0 [b]) 0 = b := by
  obtain ⟨⟨-, hbuf, -, -⟩, -⟩ := hr
  exact read_writeBytes_head b [] (hbuf .rxbuf).1

theorem ResponseRow.keeps_inv {r : Response} (h : ResponseRow s r t) (hi : s.Inv) : t.Inv := by
  cases h with
  | busTimeout => exact raiseError_inv hi.standing
  | txLoad hf =>
    obtain ⟨hr, hp⟩ := hi.runningAt hf
    exact inv_of_running hr hp trivial
  | txRxgo hf h => exact h.keeps_inv (hi.runningAt hf).1
  | rdFlush hf =>
    obtain ⟨hr, hp⟩ := hi.runningAt hf
    exact inv_of_running hr hp ((hi.flushed hf).imp_right .inl)
  | rdRxgo hf h => exact h.keeps_inv (hi.runningAt hf).1
  | addrWr => exact finish_inv hi.standing
  | txOk hf =>
    obtain ⟨hr, hp⟩ := hi.runningAt hf
    exact inv_of_running hr hp trivial
  | txUnderflow hf =>
    obtain ⟨hr, hp⟩ := hi.runningAt hf
    exact inv_of_running hr hp trivial
  | overflow hf =>
    obtain ⟨hr, hp⟩ := hi.runningAt hf
    exact inv_of_running hr hp (.inl rfl)
  | empty hf _ _ h => exact h.keeps_inv (hi.runningAt hf).1
  | available hf =>
    obtain ⟨hr, hp⟩ := hi.runningAt hf
    exact inv_of_running hr hp trivial
  | oversize hf =>
    obtain ⟨hr, hp⟩ := hi.runningAt hf
    exact inv_of_running (hr.rxWritten (by simp)) hp (.inr rfl)
  | noPayload hf =>
    obtain ⟨hr, hp⟩ := hi.runningAt hf
    refine inv_of_running (hr.rxWritten (by simp)) hp ?_
    simp [State.Awaiting, byteAt_rx, hr.rxLength]
  | @payload b hf hl hb =>
    obtain ⟨hr, hp⟩ := hi.runningAt hf
    refine inv_of_running (hr.rxWritten (by simp)) hp ?_
    have : 1 ≤ b.toNat := by bv_omega
    simp [State.Awaiting, byteAt_rx, hr.rxLength, hl, this]
  | rdBody hf hl =>
    obtain ⟨hr, hp⟩ := hi.runningAt hf
    refine inv_of_running (hr.rxWritten hl) hp ?_
    obtain ⟨hm, -⟩ := hi.rxForm
    simpa [State.Awaiting, byteAt_rx, Mem.read_writeBytes_outside _ hm] using (hi.bodyLen hf).2
  | rdTrailer hf hl h =>
    have hr := (hi.runningAt hf).1
    exact h.keeps_inv (hr.rxWritten (by simp; omega))

/-! ## Events -/

/-- The invariant speaks of nothing outside the block but `rst`, and of `RX_FLAG` by its bound only. -/
theorem State.Inv.sameBlock (h : s.Inv) (hb : s.SameBlock t) (hr : t.ports.rst = true → s.fsm = .idle)
    (hf : t.rxFlag ≤ s.cfg.rxFlagDepth) : t.Inv := by
  rw [hb]
  exact { h with held := hr, flagBound := hf }

theorem onAnswer_inv {r : Reply} (hi : s.Inv) (h : onAnswer r s = .ok t) : t.Inv := by
  obtain rfl | ⟨q, resp, chip, -, -, -, h⟩ := onAnswer_cases h
  · exact hi
  · exact (onResponse_row h).keeps_inv (hi.sameBlock rfl hi.held hi.flagBound)

theorem onTick_inv (hi : s.Inv) (h : onTick s = .ok t) : t.Inv := by
  obtain ⟨-, rfl⟩ | ⟨-, hf, hl, rfl⟩ | ⟨-, hf, -, h⟩ | ⟨-, hf, hl, rfl⟩ | ⟨-, hf, -, h⟩ := onTick_cases h
  · exact hi
  · obtain ⟨hr, hp⟩ := hi.runningAt hf
    exact inv_of_running (hr.waiting (le_max_of_le_left (hi.ackWait (.inr hf)))) hp hl
  · obtain ⟨hr, hp⟩ := hi.runningAt hf
    exact failAttempt_inv h (hr.waiting (le_max_of_le_left (hi.ackWait (.inr hf)))) (eq_of_beq hp)
  · obtain ⟨hr, hp⟩ := hi.runningAt hf
    refine inv_of_running (hr.waiting (le_max_of_le_right (hi.backoffWait hf))) hi.pair ?_
    simpa [State.Awaiting, hf] using hl
  · obtain ⟨hr, hp⟩ := hi.runningAt hf
    exact startAttempt_inv h (hr.waiting (le_max_of_le_right (hi.backoffWait hf))) (eq_of_beq hp)

/-- The reset values of R29 meet the invariant under any admitted parameters. -/
theorem resetBlock_inv (h : s.cfg.wf = true) : (resetBlock s).Inv :=
  inv_of_idle ⟨h, fun sp => by cases sp <;> exact ⟨rfl, rfl⟩, Nat.zero_le _, Nat.zero_le _⟩ rfl rfl rfl

theorem setRst_inv (b : Bool) (hi : s.Inv) : (setRst b s).Inv := by
  cases b with
  | true => exact resetBlock_inv hi.params
  | false => exact hi.sameBlock rfl nofun hi.flagBound

theorem setDataReady_inv (b : Bool) (hi : s.Inv) : (setDataReady b s).Inv := by
  unfold setDataReady
  simp only
  split
  · exact hi.sameBlock rfl hi.held (Nat.min_le_right _ _)
  · exact hi.sameBlock rfl hi.held hi.flagBound

theorem pollTake_standing (hs : s.Standing) : { s with rxFlag := (pollTake s).rxFlag }.Standing := by
  obtain ⟨hcfg, hbuf, hwait, hflag⟩ := hs
  exact ⟨hcfg, hbuf, hwait, (pollTake_rxFlag_le s).trans hflag⟩

/-- A command that makes a request is in progress once it has been accepted (42_system.md R155). -/
theorem started_running {w : CmdWord} {c : Ctx} {f : Fsm} (hs : s.Standing) (ha : s.canAccept = true)
    (hop : c.opcode = some (cwOp w)) (hw : opAssigned s.cfg.linkLayer (cwOp w) = true)
    (hp : c = .sendPacket → s.xN.toNat + 2 ≤ s.cfg.maxLen ∧ s.retryCnt.toNat < s.budget) :
    (s.started w c f).Running := by
  refine ⟨hs, (canAccept_iff.1 ha).1, rfl, ⟨rfl, rfl, rfl, rfl⟩, fun op h => ?_, hp⟩
  obtain rfl : cwOp w = op := Option.some.inj (hop.symm.trans h)
  exact ⟨rfl, hw⟩

/-- A command that transmits begins with its frame in `TXBUF`. -/
theorem started_transmits {w : CmdWord} {c : Ctx} {bs : List Byte} (hs : s.Standing) (ha : s.canAccept = true)
    (hop : c.opcode = some (cwOp w)) (hw : opAssigned s.cfg.linkLayer (cwOp w) = true)
    (hp : c = .sendPacket → s.xN.toNat + 2 ≤ s.cfg.maxLen ∧ s.retryCnt.toNat < s.budget)
    (hc : pairReached .txLoad c = true) (hl : bs.length ≤ s.cfg.maxLen) :
    ({ s with txbuf := Mem.writeBytes s.txbuf 0 (rawFrame bs) }.started w c .txLoad).Inv :=
  (started_running (f := .txLoad) hs ha hop hw hp).transmits hc hl

theorem ExecRow.keeps_inv {i : Instr} (h : ExecRow s i t) (hi : s.Inv) : t.Inv := by
  have hs := hi.standing
  cases h with
  | ignored => exact hi
  | refused => exact inv_of_idle hs rfl rfl rfl
  | @sendData n u ha _ hn =>
    exact started_transmits (s := { s with xN := n }) (bs := Mem.readBytes s.pay 0 n.toNat) hs ha
      (by simp [Ctx.opcode]) (by simp [opAssigned]) nofun rfl (by simpa using hn)
  | @sendPacket self dest retries n ha _ hl hn =>
    exact started_transmits
      (s := { s with xSelf := self, xPeer := dest, xMaxRetry := retries, xN := n, retryCnt := 0x00#8 })
      (bs := dest :: self :: Mem.readBytes s.pay 0 n.toNat) hs ha (by simp [Ctx.opcode]) (by simp [opAssigned, hl])
      (fun _ => ⟨hn, by simp [State.budget]⟩) rfl (by simp; omega)
  | @sendAck self peer u ha _ hl ht =>
    exact started_transmits (s := { s with xSelf := self, xPeer := peer }) (bs := peer :: self :: s.cfg.ackTag) hs ha
      (by simp [Ctx.opcode]) (by simp [opAssigned, hl]) nofun rfl ht
  | recvData ha =>
    exact inv_of_running (started_running hs ha (by simp [Ctx.opcode]) (by simp [opAssigned]) nofun) rfl trivial
  | recvHandle ha _ hl =>
    exact inv_of_running (started_running hs ha (by simp [Ctx.opcode]) (by simp [opAssigned, hl]) nofun) rfl trivial
  | pktAvail => exact inv_of_idle (pollTake_standing hs) rfl rfl rfl
  | setAddr ha =>
    exact inv_of_running (started_running hs ha (by simp [Ctx.opcode]) (by simp [opAssigned]) nofun) rfl trivial
  | wrPay _ hi => exact inv_of_idle (hs.writeBytes (sp := .pay) hi) rfl rfl rfl
  | rdRx => exact inv_of_idle hs rfl rfl rfl
  | received => exact hi.sameBlock rfl hi.held hi.flagBound
  | statusAnswered _ _ h => exact h.keeps_inv (hi.sameBlock rfl hi.held hi.flagBound)
  | statusUnasked => exact hi

theorem react_inv (hi : s.Inv) (h : react s = .next t) : t.Inv := by
  have ha : s.advance.Inv := hi.sameBlock rfl hi.held hi.flagBound
  obtain ⟨c, i, -, -, h⟩ | ⟨c, e, -, -, rfl⟩ | ⟨r, -, h⟩ | ⟨-, rfl⟩ | ⟨-, h⟩ | ⟨b, -, rfl⟩ | ⟨b, -, rfl⟩ |
    ⟨b, -, rfl⟩ | ⟨bs, o, -, rfl⟩ | ⟨-, rfl⟩ := react_cases h
  · exact (exec_row h).keeps_inv ha
  · exact ha
  · exact onAnswer_inv ha h
  · exact ha
  · exact onTick_inv ha h
  · exact setRst_inv b ha
  · exact ha.sameBlock rfl ha.held ha.flagBound
  · exact setDataReady_inv b ha
  · exact ha.sameBlock rfl ha.held ha.flagBound
  · exact ha.sameBlock rfl ha.held ha.flagBound

/-- Rows 18 and 19: the poll of the ACK wait leads to the read or to the tick. -/
theorem thenPoll_inv (s : State) (hi : t.Inv) : (s.thenPoll t).Inv := by
  by_cases hs : s.fsm = .ackPoll
  · by_cases hf : t.fsm = .ackPoll
    · obtain ⟨hr, hp⟩ := hi.runningAt hf
      rw [thenPoll_ackPoll hs hr.released hf]
      have hr' := hr.flagged ((pollTake_rxFlag_le t).trans hi.flagBound)
      split
      · exact inv_of_running hr' (by simp [eq_of_beq hp, pairReached]) trivial
      · exact inv_of_running hr' hp (hi.ackWait (.inl hf))
    · rwa [thenPoll_left (.inr hf)]
  · rwa [thenPoll_other hs]

theorem step_inv (hi : s.Inv) (h : step s = .next t) : t.Inv := by
  obtain ⟨u, hu, rfl⟩ := step_eq_next.1 h
  exact thenPoll_inv s (react_inv hi hu)

end

theorem Params.standard_wf : Params.standard.wf = true := by
  have : Config.backoffTicks.toNat < 2 ^ 16 := Config.backoffTicks.isLt
  simp [Params.wf_iff, Params.standard, Params.ackTagLen]
  omega

/-- Settles O51: every row of the transition table leads an idle or a running block to one that meets the invariant,
and so do the other events and the poll. -/
theorem stepKeepsTheInvariant : Obligations.StepKeepsTheInvariant := fun _ _ hi h => step_inv hi h

/-- Settles O50: `State.reset` is what `rst` makes of it, and its parameters are admitted. -/
theorem resetMeetsTheInvariant : Obligations.ResetMeetsTheInvariant :=
  resetBlock_inv (s := State.reset) Params.standard_wf

end Sys2Proof.Machine

namespace Sys2Proof.Machine

/-! # The registers that the host reads (10_state.md R15 to R20, R26, R29) -/

/-! ## Bit places -/

theorem Status.word_busy (st : Status) : st.word.getLsbD 0 = st.busy := by
  simp only [Status.word, BitVec.getLsbD_append]
  simp

theorem Status.word_done (st : Status) : st.word.getLsbD 1 = st.done := by
  simp only [Status.word, BitVec.getLsbD_append]
  simp

theorem Status.word_ok (st : Status) : st.word.getLsbD 2 = st.ok := by
  simp only [Status.word, BitVec.getLsbD_append]
  simp

theorem Status.word_rxcode (st : Status) : st.word.extractLsb' 3 2 = st.rxcode.code := by
  refine extract_eq _ _ fun i hi => ?_
  simp only [Status.word, BitVec.getLsbD_append]
  grind

theorem Status.word_unused (st : Status) : st.word.extractLsb' 5 3 = 0#3 := by
  refine extract_eq _ _ fun i hi => ?_
  simp only [Status.word, BitVec.getLsbD_append]
  grind

theorem Err.word_code (e : Err) : e.word.extractLsb' 0 4 = e.code.code := by
  refine extract_eq _ _ fun i hi => ?_
  simp only [Err.word, BitVec.getLsbD_append]
  grind

theorem Err.word_att (e : Err) : e.word.extractLsb' 4 4 = e.att.code := by
  refine extract_eq _ _ fun i hi => ?_
  simp only [Err.word, BitVec.getLsbD_append]
  grind

theorem cmdReady_iff (s : State) : s.cmdReady = true ↔ s.status.word.getLsbD 0 = false := by
  rw [Status.word_busy, State.cmdReady, Bool.not_eq_true']

/-- Settles O8: each field is read back from its own place in the word, and the numbers are those of the tables. -/
theorem statusAndErrBitPlaces : Obligations.StatusAndErrBitPlaces := by
  refine ⟨fun st => ?_, fun e => ⟨e.word_code, e.word_att⟩, cmdReady_iff, ?_⟩
  · exact ⟨st.word_busy, st.word_done, st.word_ok, st.word_rxcode, st.word_unused⟩
  · decide

/-! ## Reset -/

theorem byteAt_reset (sp : Space) (i : Nat) : State.reset.byteAt sp i = 0x00#8 := by cases sp <;> rfl

/-- A raw RSSI of 0 reads as the negated offset (40_framer.md R95). -/
theorem rssiToDbm_zero (o : Byte) : rssiToDbm 0#8 o = -(o.toNat : Int) := by simp [rssiToDbm]

/-- Settles O9: `State.reset` field by field, with `RSSI_DBM` as the offset of R95 alone. -/
theorem resetStateIsTheTable : Obligations.ResetStateIsTheTable := by
  refine ⟨byteAt_reset, ?_⟩
  refine ⟨rfl, rfl, rfl, rfl, rfl, rfl, rfl, rfl, rssiToDbm_zero _, ?_⟩
  decide

/-- Settles O10: `rst` is one event, after which no poll follows where it is asserted. -/
theorem rstResetsTheBlockOnly : Obligations.RstResetsTheBlockOnly := by
  intro s
  refine ⟨fun he => ?_, fun he => step_of_react (react_rst he)⟩
  rw [step_of_react (react_rst he), thenPoll_left (.inl rfl)]
  rfl

/-! ## Under `rst` (70_reset_and_hazards.md R212) -/

section
variable {s : State} (hr : s.ports.rst = true)
include hr

theorem canAccept_held : s.canAccept = false := by simp [State.canAccept, hr]

theorem execRxStatusByte_held (o : Bool) (c : BitVec 7) : execRxStatusByte o c s = .next s := by
  simp [execRxStatusByte, hr]

theorem onAnswer_held (r : Reply) : onAnswer r s = .ok s := by simp [onAnswer, hr]

theorem onTick_held : onTick s = .ok s := by simp [onTick, hr]

theorem setDataReady_held (b : Bool) :
    setDataReady b s = { s with ports := { s.ports with dataReady := b } } := by simp [setDataReady, hr]

end

/-- A step that leaves `rst` asserted is its event alone: no poll follows. -/
theorem step_held {s t : State} (h : react s = .next t) (ht : t.ports.rst = true) : step s = .next t := by
  rw [step_of_react h, thenPoll_left (.inl ht)]

/-- Settles O11: each of the block's parts tests `rst` before anything else. -/
theorem nothingHappensWhileRstIsHeld : Obligations.NothingHappensWhileRstIsHeld := by
  intro s hr
  have ha : s.advance.ports.rst = true := hr
  refine ⟨fun w he => ?word, fun b he => ?status, fun r he => ?answer, fun he => ?poll, fun he => ?tick,
    fun b he => ?dataReady⟩
  case word => exact step_held (by rw [react_code he rfl, exec_decodeWord_ignores (canAccept_held ha)]) hr
  case status => exact step_held ((react_code he rfl).trans (execRxStatusByte_held ha _ _)) hr
  case answer => exact step_held (by rw [react_answer he, onAnswer_held ha, outcome_ok]) hr
  case poll => exact step_held (react_poll he) hr
  case tick => exact step_held (by rw [react_tick he, onTick_held ha, outcome_ok]) hr
  case dataReady => exact step_held ((react_dataReady he).trans (congrArg _ (setDataReady_held ha b))) hr

/-! # The radio agent (10_state.md R27, 20_memory.md R44, R53, R54) -/

/-- Up to 127 bytes the count of the `RX_STATUS` byte is exact. -/
theorem statusCnt_statusByte {now : Nat} {c : Chip} (h : c.rxFifo.length ≤ 127) :
    (statusCnt (c.statusByte now)).toNat = c.rxFifo.length := by
  simp only [Chip.statusByte, statusCnt_statusByteOf, if_pos h, BitVec.toNat_ofNat]
  omega

/-- A pop answers the content first, oldest byte first. -/
theorem getElem?_popBytes {now k : Nat} {c : Chip} {i : Nat} (h : i < c.rxFifo.length) (hk : i < k) :
    (c.popBytes now k)[i]? = some c.rxFifo[i] := by
  rw [Chip.popBytes, List.getElem?_append_left (by simp; omega), List.getElem?_take_of_lt hk,
    List.getElem?_eq_getElem h]

/-- Only `TX_GO` has the response `TX_UNDERFLOW` (R27). -/
theorem respond_txUnderflow_iff {now : Nat} {q : Request} {c : Chip} :
    (∃ r, c.respond now q .txUnderflow = some r) ↔ q = .txGo := by
  cases q <;> simp [Chip.respond]

/-- Settles O47: the receive requests answer from the RX FIFO by definition, the count and the content of a pop by the
lemmas above. -/
theorem radioAnswersFromItsFifo : Obligations.RadioAnswersFromItsFifo := by
  intro now c
  refine ⟨fun h => ?rxStatus, fun k => ?rxfifoPop, ⟨_, rfl⟩, fun q => ⟨_, rfl⟩, fun q => respond_txUnderflow_iff⟩
  case rxStatus => exact ⟨_, rfl, statusOvf_statusByteOf _ _, statusCnt_statusByte h⟩
  case rxfifoPop => exact ⟨_, rfl, length_popBytes now k c, fun i h hk => getElem?_popBytes h hk⟩

end Sys2Proof.Machine

namespace Sys2Proof

/-! # What the decoder reads is encoded back (30_encoding.md R60 to R72) -/

/-! ## A word is its fields, in each of the five layouts of R70 -/

section
variable (w : CmdWord)

theorem cwOp_append_rest : (cwOp w ++ w.extractLsb' 0 32 : BitVec 40) = w := by
  refine BitVec.eq_of_getLsbD_eq fun i hi => ?_
  simp only [cwOp, BitVec.getLsbD_append, BitVec.getLsbD_extractLsb']
  grind

theorem cwOp_append_cwA : (cwOp w ++ cwA w ++ w.extractLsb' 0 24 : BitVec 40) = w := by
  refine BitVec.eq_of_getLsbD_eq fun i hi => ?_
  simp only [cwOp, cwA, BitVec.getLsbD_append, BitVec.getLsbD_extractLsb']
  grind

theorem cwOp_append_cwA_cwB : (cwOp w ++ cwA w ++ cwB w ++ w.extractLsb' 0 16 : BitVec 40) = w := by
  refine BitVec.eq_of_getLsbD_eq fun i hi => ?_
  simp only [cwOp, cwA, cwB, BitVec.getLsbD_append, BitVec.getLsbD_extractLsb']
  grind

theorem cwOp_append_fields : (cwOp w ++ cwA w ++ cwB w ++ cwC w ++ cwN w : BitVec 40) = w := by
  refine BitVec.eq_of_getLsbD_eq fun i hi => ?_
  simp only [cwOp, cwA, cwB, cwC, cwN, BitVec.getLsbD_append, BitVec.getLsbD_extractLsb']
  grind

theorem cwOp_append_cwN : (cwOp w ++ w.extractLsb' 8 24 ++ cwN w : BitVec 40) = w := by
  refine BitVec.eq_of_getLsbD_eq fun i hi => ?_
  simp only [cwOp, cwN, BitVec.getLsbD_append, BitVec.getLsbD_extractLsb']
  grind

end

theorem encode_decodeWord (p : Params) (link : Bool) (w : CmdWord) : encode p (decodeWord link w) = .word w := by
  unfold decodeWord
  repeat' split
  · rfl
  · next h => rw [encode, wordSendData, ← h, cwOp_append_cwN]
  · next h => rw [encode, wordSendPacket, ← h, cwOp_append_fields]
  · next h => rw [encode, wordSendAck, ← h, cwOp_append_cwA_cwB]
  · next h => rw [encode, wordRecvData, ← h, cwOp_append_rest]
  · next h => rw [encode, wordRecvHandle, ← h, cwOp_append_cwA_cwB]
  · next h => rw [encode, wordPktAvail, ← h, cwOp_append_rest]
  · next h => rw [encode, wordSetAddr, ← h, cwOp_append_cwA]
  · next h => rw [encode, wordWrPay, ← h, cwOp_append_cwA_cwB]
  · next h => rw [encode, wordRdRx, ← h, cwOp_append_cwA]
  · rfl

theorem encode_decodeStatusByte (p : Params) (b : Byte) : encode p (decodeStatusByte b) = .status b :=
  congrArg Code.status (statusByteOf_fields b)

/-- A length byte that counts the bytes behind it is their number (R60). -/
theorem lenByte_of_length {b : Byte} {bs : List Byte} (h : bs.length = b.toNat) : lenByte bs.length = b := by
  simp [lenByte, h]

/-- The length tests that all three frame formats begin with. -/
theorem decodeLength_eq_ok {p : Params} {len : Byte} {rest : List Byte} {r : Except DecodeError Instr} {i : Instr}
    (h : (if rest.length ≠ len.toNat then .error .lengthMismatch
      else if p.maxLen < rest.length then .error .overMaxLen else r) = Except.ok i) :
    rest.length = len.toNat ∧ r = .ok i := by
  split at h
  · cases h
  · next hl =>
    split at h
    · cases h
    · exact ⟨not_not.1 hl, h⟩

theorem encode_of_decodeBytes {p : Params} {fmt : ByteFormat} {bs : List Byte} {i : Instr}
    (h : decodeBytes p fmt bs = .ok i) : encode p i = .bytes fmt bs := by
  unfold decodeBytes at h
  split at h
  · cases h
  next len rest =>
  split at h
  · split at h
    · next rssi lqi hd =>
      cases h
      have hl := congrArg List.length hd
      have ht : (rest.take len.toNat).length = len.toNat := by
        simp only [List.length_drop, List.length_cons, List.length_nil] at hl
        simp only [List.length_take]
        omega
      rw [encode, recordBytes, rawFrame, lenByte_of_length ht, List.cons_append, ← hd, List.take_append_drop]
    · cases h
  · obtain ⟨hl, h⟩ := decodeLength_eq_ok h
    cases h
    rw [encode, rawFrame, lenByte_of_length hl]
  · obtain ⟨hl, h⟩ := decodeLength_eq_ok h
    split at h
    · cases h
      exact congrArg (Code.bytes .addressed) (congrArg (· :: _) (lenByte_of_length hl))
    · cases h
  · obtain ⟨hl, h⟩ := decodeLength_eq_ok h
    split at h
    · split at h
      · next htag =>
        cases h
        subst htag
        exact congrArg (Code.bytes .ack) (congrArg (· :: _) (lenByte_of_length hl))
      · cases h
    · cases h

/-- The decoder drops no bit: encoding gives back what it has read. -/
theorem encode_of_decode {p : Params} {c : Code} {i : Instr} (h : decode p c = .ok i) : encode p i = c := by
  cases c with
  | word w => cases h; exact encode_decodeWord p p.linkLayer w
  | status b => cases h; exact encode_decodeStatusByte p b
  | bytes fmt bs => exact encode_of_decodeBytes h

end Sys2Proof

namespace Sys2Proof.Machine

/-! # Who writes the registers that the host reads (10_state.md R11, R14, R16, R21) -/

/-- `PAY`, `RD_DATA`, `OWN_ADDR` and the packet registers. -/
structure HostRegs where
  pay : Mem
  rdData : Byte
  ownAddr : Byte
  rLen : Byte
  rDest : Byte
  rSrc : Byte
  rRssiRaw : Byte
  rLqiRaw : Byte

def State.hostRegs (s : State) : HostRegs :=
  { pay := s.pay, rdData := s.rdData, ownAddr := s.ownAddr, rLen := s.rLen, rDest := s.rDest, rSrc := s.rSrc,
    rRssiRaw := s.rRssiRaw, rLqiRaw := s.rLqiRaw }

/-- What a row of the sequencer does to these registers, `OWN_ADDR` aside: `PAY` and `RD_DATA` keep, and a packet
register is written on behalf of a receiving command only. -/
structure State.PacketFrame (s t : State) : Prop where
  pay : t.pay = s.pay
  rdData : t.rdData = s.rdData
  addresses : t.rDest ≠ s.rDest ∨ t.rSrc ≠ s.rSrc → s.ctx = .recvHandle
  trailer : t.rRssiRaw ≠ s.rRssiRaw ∨ t.rLqiRaw ≠ s.rLqiRaw → s.ctx = .recvData ∨ s.ctx = .recvHandle
  length : t.rLen ≠ s.rLen → s.ctx = .recvData ∨ s.ctx = .recvHandle

section
variable {s t : State}

theorem packetFrame_of_hostRegs (h : t.hostRegs = s.hostRegs) : s.PacketFrame t := by
  simp only [State.hostRegs, HostRegs.mk.injEq] at h
  obtain ⟨hpay, hdata, -, hlen, hdest, hsrc, hrssi, hlqi⟩ := h
  exact ⟨hpay, hdata, by simp [hdest, hsrc], by simp [hrssi, hlqi], by simp [hlen]⟩

theorem startAttempt_hostRegs (h : startAttempt s = .ok t) : t.hostRegs = s.hostRegs := by
  obtain ⟨-, rfl⟩ := startAttempt_eq_ok h; rfl

theorem retry_hostRegs (h : retry s = .ok t) : t.hostRegs = s.hostRegs := by
  obtain ⟨-, -, rfl⟩ | ⟨-, -, h⟩ | ⟨-, rfl⟩ := retry_cases h
  · rfl
  · rw [startAttempt_hostRegs h]; rfl
  · rfl

theorem failAttempt_hostRegs {e : ErrCode} (h : failAttempt e s = .ok t) : t.hostRegs = s.hostRegs :=
  retry_hostRegs (s := { s with err := { s.err with att := e } }) h

theorem TransmitRow.hostRegs_eq (h : TransmitRow s t) : t.hostRegs = s.hostRegs := by
  cases h with
  | noWait _ _ _ _ h => rw [failAttempt_hostRegs h]; rfl
  | failed _ _ h => exact retry_hostRegs h
  | _ => rfl

theorem ReadRow.packetFrame (h : ReadRow s t) : s.PacketFrame t := by
  cases h with
  | recvData hc =>
    exact ⟨rfl, rfl, fun h => absurd h (by simp [State.trailerTaken]), fun _ => .inl hc, fun _ => .inl hc⟩
  | handleAck hc => exact ⟨rfl, rfl, fun _ => hc, fun _ => .inr hc, fun _ => .inr hc⟩
  | handleReply hc => exact ⟨rfl, rfl, fun _ => hc, fun _ => .inr hc, fun _ => .inr hc⟩
  | handleData hc => exact ⟨rfl, rfl, fun _ => hc, fun _ => .inr hc, fun _ => .inr hc⟩
  | retried _ _ h => exact packetFrame_of_hostRegs (retry_hostRegs h)
  | waitFailed _ _ h => exact packetFrame_of_hostRegs (failAttempt_hostRegs h)
  | _ => exact packetFrame_of_hostRegs rfl

theorem ReadRow.ownAddr_eq (h : ReadRow s t) : t.ownAddr = s.ownAddr := by
  cases h with
  | retried _ _ h => exact congrArg HostRegs.ownAddr (retry_hostRegs h)
  | waitFailed _ _ h => exact congrArg HostRegs.ownAddr (failAttempt_hostRegs h)
  | _ => rfl

theorem ResponseRow.packetFrame {r : Response} (h : ResponseRow s r t) : s.PacketFrame t := by
  cases h with
  | txRxgo _ h => exact packetFrame_of_hostRegs h.hostRegs_eq
  | rdRxgo _ h => exact h.packetFrame
  | empty _ _ _ h => exact { h.packetFrame with }
  | rdTrailer _ _ h => exact { h.packetFrame with }
  | addrWr => exact ⟨rfl, rfl, by simp, by simp, by simp⟩
  | _ => exact packetFrame_of_hostRegs rfl

/-- `OWN_ADDR` is written by the `OK` to the address write, with the address of the command (42_system.md R153). -/
theorem ResponseRow.ownAddr_cases {r : Response} (h : ResponseRow s r t) :
    t.ownAddr = s.ownAddr ∨
      (r = .ok ∧ s.fsm = .addrWr ∧ t = finish true .ack { s with ownAddr := cwA s.cmdw }) := by
  cases h with
  | txRxgo _ h => exact .inl (congrArg HostRegs.ownAddr h.hostRegs_eq)
  | rdRxgo _ h => exact .inl h.ownAddr_eq
  | empty _ _ _ h => exact .inl h.ownAddr_eq
  | rdTrailer _ _ h => exact .inl h.ownAddr_eq
  | addrWr hf => exact .inr ⟨rfl, hf, rfl⟩
  | _ => exact .inl rfl

/-- The radio agent answers `OK` to the address write by writing the address (10_state.md R27). -/
theorem respond_addrWrite_ok {now : Nat} {a : Byte} {r : Reply} {c c' : Chip}
    (h : c.respond now (.addrWrite a) r = some (.ok, c')) : r = .done ∧ c' = { c with addr := a } := by
  cases r <;> simp_all [Chip.respond]

/-- What the reply of the radio agent does to the registers. -/
theorem onAnswer_packetFrame {r : Reply} (h : onAnswer r s = .ok t) : s.PacketFrame t := by
  obtain rfl | ⟨q, resp, chip, -, -, -, h⟩ := onAnswer_cases h
  · exact packetFrame_of_hostRegs rfl
  · exact { (onResponse_row h).packetFrame with }

theorem onAnswer_ownAddr {r : Reply} (h : onAnswer r s = .ok t) (hne : t.ownAddr ≠ s.ownAddr) :
    s.fsm = .addrWr ∧ r = .done ∧ t.ownAddr = cwA s.cmdw ∧ t.chip.addr = t.ownAddr ∧ t.status.ok = true := by
  obtain rfl | ⟨q, resp, chip, -, hq, hc, h⟩ := onAnswer_cases h
  · exact absurd rfl hne
  · obtain h | ⟨rfl, hf, rfl⟩ := (onResponse_row h).ownAddr_cases
    · exact absurd h hne
    · have hf : s.fsm = .addrWr := hf
      simp only [currentRequest, hf, Except.ok.injEq, Option.some.injEq] at hq
      subst hq
      obtain ⟨rfl, rfl⟩ := respond_addrWrite_ok hc
      exact ⟨hf, rfl, rfl, rfl, rfl⟩

theorem onTick_hostRegs (h : onTick s = .ok t) : t.hostRegs = s.hostRegs := by
  obtain ⟨-, rfl⟩ | ⟨-, -, -, rfl⟩ | ⟨-, -, -, h⟩ | ⟨-, -, -, rfl⟩ | ⟨-, -, -, h⟩ := onTick_cases h
  · rfl
  · rfl
  · rw [failAttempt_hostRegs h]; rfl
  · rfl
  · rw [startAttempt_hostRegs h]; rfl

theorem setDataReady_hostRegs (b : Bool) (s : State) : (setDataReady b s).hostRegs = s.hostRegs := by
  unfold setDataReady; simp only; split <;> rfl

/-- What a step with event `e` does to these registers, outside reset. -/
structure State.HostFrame (e : Event) (s t : State) : Prop where
  pay : t.pay ≠ s.pay → s.status.busy = false ∧ ∃ idx val u, e = .code (.word (wordWrPay idx val u))
  rdData : t.rdData ≠ s.rdData → s.status.busy = false ∧ ∃ idx u, e = .code (.word (wordRdRx idx u))
  ownAddr : t.ownAddr ≠ s.ownAddr → s.ctx = .setAddr ∧ e = .answer .done ∧ t.ownAddr = cwA s.cmdw ∧
    t.chip.addr = t.ownAddr ∧ t.status.ok = true
  addresses : t.rDest ≠ s.rDest ∨ t.rSrc ≠ s.rSrc → s.ctx = .recvHandle
  trailer : t.rRssiRaw ≠ s.rRssiRaw ∨ t.rLqiRaw ≠ s.rLqiRaw → s.ctx = .recvData ∨ s.ctx = .recvHandle
  length : t.rLen ≠ s.rLen → s.ctx = .recvData ∨ s.ctx = .recvHandle ∨ t.ctx = .recvData ∨ t.ctx = .recvHandle

variable {e : Event}

theorem State.PacketFrame.hostFrame (h : s.PacketFrame t)
    (ho : t.ownAddr ≠ s.ownAddr → s.ctx = .setAddr ∧ e = .answer .done ∧ t.ownAddr = cwA s.cmdw ∧
      t.chip.addr = t.ownAddr ∧ t.status.ok = true) : State.HostFrame e s t where
  pay hne := absurd h.pay hne
  rdData hne := absurd h.rdData hne
  ownAddr := ho
  addresses := h.addresses
  trailer := h.trailer
  length hne := (h.length hne).imp_right .inl

theorem hostFrame_of_hostRegs (h : t.hostRegs = s.hostRegs) : State.HostFrame e s t :=
  (packetFrame_of_hostRegs h).hostFrame fun hne => absurd (congrArg HostRegs.ownAddr h) hne

/-- A command that begins a receive clears `R_LEN` (40_framer.md R99, 41_link.md R127). -/
theorem hostFrame_of_clearedLength (h : t.hostRegs = { s.hostRegs with rLen := t.rLen })
    (hc : t.ctx = .recvData ∨ t.ctx = .recvHandle) : State.HostFrame e s t := by
  simp only [State.hostRegs, HostRegs.mk.injEq] at h
  obtain ⟨hpay, hdata, hown, -, hdest, hsrc, hrssi, hlqi⟩ := h
  exact ⟨by simp [hpay], by simp [hdata], by simp [hown], by simp [hdest, hsrc], by simp [hrssi, hlqi],
    fun _ => .inr (.inr hc)⟩

theorem ExecRow.hostFrame {i : Instr} (h : ExecRow s i t) : State.HostFrame (.code (encode s.cfg i)) s t := by
  cases h with
  | recvData => exact hostFrame_of_clearedLength rfl (.inl rfl)
  | recvHandle => exact hostFrame_of_clearedLength rfl (.inr rfl)
  | @wrPay idx val u ha =>
    exact ⟨fun _ => ⟨(canAccept_iff.1 ha).2, idx, val, u, rfl⟩, absurd rfl, absurd rfl, by simp [State.completed],
      by simp [State.completed], absurd rfl⟩
  | @rdRx idx u ha =>
    exact ⟨absurd rfl, fun _ => ⟨(canAccept_iff.1 ha).2, idx, u, rfl⟩, absurd rfl, by simp [State.completed],
      by simp [State.completed], absurd rfl⟩
  | statusAnswered _ _ h =>
    have hp : s.PacketFrame t := { h.packetFrame with }
    refine hp.hostFrame fun hne => ?_
    obtain h | ⟨⟨⟩, -⟩ := h.ownAddr_cases
    exact absurd h hne
  | _ => exact hostFrame_of_hostRegs rfl

theorem onAnswer_hostFrame {r : Reply} (hi : s.Inv) (h : onAnswer r s = .ok t) :
    State.HostFrame (.answer r) s t := by
  refine (onAnswer_packetFrame h).hostFrame fun hne => ?_
  obtain ⟨hf, rfl, haddr⟩ := onAnswer_ownAddr h hne
  exact ⟨eq_of_beq (hi.runningAt hf).2, rfl, haddr⟩

theorem react_hostFrame (hi : s.Inv) (hne : s.nextEvent ≠ .rst true) (h : react s = .next t) :
    State.HostFrame s.nextEvent s t := by
  have ha : s.advance.Inv := hi.sameBlock rfl hi.held hi.flagBound
  obtain ⟨c, i, he, hd, h⟩ | ⟨c, e, -, -, rfl⟩ | ⟨r, he, h⟩ | ⟨-, rfl⟩ | ⟨-, h⟩ | ⟨b, he, rfl⟩ | ⟨b, -, rfl⟩ |
    ⟨b, -, rfl⟩ | ⟨bs, o, -, rfl⟩ | ⟨-, rfl⟩ := react_cases h
  · rw [he, ← encode_of_decode hd]
    exact { (exec_row h).hostFrame with }
  · exact hostFrame_of_hostRegs rfl
  · rw [he]
    exact { onAnswer_hostFrame ha h with }
  · exact hostFrame_of_hostRegs rfl
  · exact hostFrame_of_hostRegs ((onTick_hostRegs h).trans rfl)
  · cases b with
    | true => exact absurd he hne
    | false => exact hostFrame_of_hostRegs rfl
  · exact hostFrame_of_hostRegs rfl
  · exact hostFrame_of_hostRegs (setDataReady_hostRegs b _)
  · exact hostFrame_of_hostRegs rfl
  · exact hostFrame_of_hostRegs rfl

theorem step_hostFrame (hi : s.Inv) (hne : s.nextEvent ≠ .rst true) (h : step s = .next t) :
    State.HostFrame s.nextEvent s t := by
  obtain ⟨u, hu, rfl⟩ := step_eq_next.1 h
  rw [thenPoll_eq]
  exact { react_hostFrame hi hne hu with }

end

/-- Settles O53: of all rows, only the one of an accepted `WR_PAY` writes `PAY`. -/
theorem payIsWrittenByWrPayOnly : Obligations.PayIsWrittenByWrPayOnly := by
  intro s t hi h hne
  by_cases he : s.nextEvent = .rst true
  · exact .inl he
  · exact .inr ((step_hostFrame hi he h).pay hne)

/-- Settles O54: the rows write each register in the contexts named; `OWN_ADDR` follows the chip's `OK`. -/
theorem hostRegistersHaveTheirWriters : Obligations.HostRegistersHaveTheirWriters := by
  intro s t hi h he
  obtain ⟨-, hdata, hown, haddr, htrailer, hlen⟩ := step_hostFrame hi he h
  exact ⟨hdata, hown, haddr, htrailer, hlen⟩

end Sys2Proof.Machine

namespace Sys2Proof.Machine

/-! # No step stops (60_exceptions.md R180)

From a state that meets the invariant every part of the sequencer answers: each buffer index is in range and each
response has its row. -/

/-! ## The parts of the sequencer -/

theorem except_map_isOk {α β : Type} {r : Except Fault α} {g : α → β} (h : ∃ a, r = .ok a) :
    ∃ b, r.map g = .ok b := by
  obtain ⟨a, rfl⟩ := h
  exact ⟨g a, rfl⟩

section
variable {s : State}

theorem startAttempt_ok (hn : s.xN.toNat + 2 ≤ s.cfg.maxLen) : ∃ t, startAttempt s = .ok t :=
  except_map_isOk ⟨_, buildAddressed_inside hn⟩

theorem retry_ok (hn : s.xN.toNat + 2 ≤ s.cfg.maxLen) : ∃ t, retry s = .ok t := by
  unfold retry
  split
  · split
    · exact startAttempt_ok hn
    · exact ⟨_, rfl⟩
  · exact ⟨_, rfl⟩

theorem failAttempt_ok (e : ErrCode) (hn : s.xN.toNat + 2 ≤ s.cfg.maxLen) : ∃ t, failAttempt e s = .ok t :=
  retry_ok (s := { s with err := { s.err with att := e } }) hn

/-- A transmit on behalf of a command that transmits has its row for every answer. -/
theorem afterTransmit_ok (hp : pairReached .txRxgo s.ctx = true)
    (hn : s.ctx = .sendPacket → s.xN.toNat + 2 ≤ s.cfg.maxLen) : ∃ t, afterTransmit s = .ok t := by
  unfold afterTransmit
  split
  · exact ⟨_, rfl⟩
  · exact ⟨_, rfl⟩
  · exact ⟨_, rfl⟩
  · next hc =>
    split
    · split
      · exact ⟨_, rfl⟩
      · split
        · exact ⟨_, rfl⟩
        · exact failAttempt_ok _ (s := { s with waitCnt := 0 }) (hn hc)
    · exact retry_ok (hn hc)
  all_goals next hc => simp [hc, pairReached] at hp

theorem takeTrailer_ok (hl : (s.byteAt .rxbuf 0).toNat ≤ s.cfg.maxLen) : takeTrailer s = .ok s.trailerTaken :=
  takeTrailer_inside hl

theorem classify_ok (hw : s.cfg.wf = true) (hl : (s.byteAt .rxbuf 0).toNat ≤ s.cfg.maxLen) :
    ∃ t, classify s = .ok t := by
  rw [classify_eq, takeTrailer_ok (s := s.headTaken) hl, except_bind_ok]
  split
  · exact ⟨_, rfl⟩
  · split
    · exact ⟨_, autoAck_inside hw⟩
    · exact ⟨_, rfl⟩

/-- What `DISPATCH` relies on: a read that has a result, and of a record a length that fits. -/
def State.ReadEnded (s : State) : Prop :=
  match s.rdres with
  | .none => False
  | .ok => (s.byteAt .rxbuf 0).toNat ≤ s.cfg.maxLen
  | .badAck => s.ctx = .sendPacket
  | .empty | .overflow | .oversize => True

theorem dispatchRecvData_ok (hc : s.ctx = .recvData) (he : s.ReadEnded) : ∃ t, dispatchRecvData s = .ok t := by
  unfold State.ReadEnded at he
  unfold dispatchRecvData
  split
  · next hr =>
    rw [hr] at he
    exact except_map_isOk ⟨_, takeTrailer_ok (s := { s with rLen := s.byteAt .rxbuf 0 }) he⟩
  · exact ⟨_, rfl⟩
  · exact ⟨_, rfl⟩
  · exact ⟨_, rfl⟩
  all_goals next hr => simp [hr, hc] at he

theorem dispatchRecvHandle_ok (hw : s.cfg.wf = true) (hc : s.ctx = .recvHandle) (he : s.ReadEnded) :
    ∃ t, dispatchRecvHandle s = .ok t := by
  unfold State.ReadEnded at he
  unfold dispatchRecvHandle
  split
  · next hr =>
    rw [hr] at he
    split
    · exact ⟨_, rfl⟩
    · split
      · exact ⟨_, rfl⟩
      · exact classify_ok hw he
  · exact ⟨_, rfl⟩
  · exact ⟨_, rfl⟩
  · exact ⟨_, rfl⟩
  all_goals next hr => simp [hr, hc] at he

theorem dispatchSendPacket_ok (hn : s.xN.toNat + 2 ≤ s.cfg.maxLen) (he : s.ReadEnded) :
    ∃ t, dispatchSendPacket s = .ok t := by
  unfold State.ReadEnded at he
  unfold dispatchSendPacket
  split
  · split <;> exact ⟨_, rfl⟩
  · exact retry_ok hn
  · exact failAttempt_ok _ hn
  · exact failAttempt_ok _ hn
  · exact failAttempt_ok _ hn
  · next hr => simp [hr] at he

theorem dispatch_ok (hr : s.Running) (hp : pairReached .rdRxgo s.ctx = true) (he : s.ReadEnded) :
    ∃ t, dispatch s = .ok t := by
  obtain ⟨⟨hw, -⟩, -, -, -, -, hpkt⟩ := hr
  unfold dispatch
  split
  · next hc => exact dispatchRecvData_ok hc he
  · next hc => exact dispatchRecvHandle_ok hw hc he
  · next hc => exact dispatchSendPacket_ok (hpkt hc).1 he
  all_goals next hc => simp [hc, pairReached] at hp

/-! ## Responses -/

/-- The response is one that the request of the state has (10_state.md R27). -/
def State.Answerable (s : State) : Response → Prop
  | .busTimeout => True
  | .ok => s.fsm = .txLoad ∨ s.fsm = .txRxgo ∨ s.fsm = .rdFlush ∨ s.fsm = .rdRxgo ∨ s.fsm = .addrWr
  | .txOk | .txUnderflow => s.fsm = .txGo
  | .byte _ => s.fsm = .rdStatus
  | .bytes bs => (s.fsm = .rdLen ∧ bs.length = 1) ∨
      (s.fsm = .rdBody ∧ bs.length = (s.byteAt .rxbuf 0).toNat) ∨ (s.fsm = .rdTrailer ∧ bs.length = 2)

/-- The responses of a request beside `BUS_TIMEOUT` (10_state.md R27). -/
def Request.expects : Request → Response → Prop
  | .txGo, .txOk | .txGo, .txUnderflow | .rxStatus, .byte _ => True
  | .rxfifoPop k, .bytes bs => bs.length = k
  | .txfifoBurst _, .ok | .rxGo, .ok | .rxFlush, .ok | .addrWrite _, .ok => True
  | _, _ => False

theorem respond_expected {r : Reply} {q : Request} {resp : Response} {now : Nat} {c c' : Chip}
    (h : c.respond now q r = some (resp, c')) : resp = .busTimeout ∨ q.expects resp := by
  cases r with
  | busTimeout => cases h; exact .inl rfl
  | txUnderflow =>
    obtain rfl := respond_txUnderflow_iff.1 ⟨_, h⟩
    cases h
    exact .inr trivial
  | done => cases q <;> cases h <;> simp [Request.expects]

/-- The radio agent gives no other response to the request of the state. -/
theorem answerable_of_respond {r : Reply} {q : Request} {resp : Response} {now : Nat} {c c' : Chip}
    (hq : currentRequest s = .ok (some q)) (hc : c.respond now q r = some (resp, c')) : s.Answerable resp := by
  obtain rfl | he := respond_expected hc
  · trivial
  · cases hf : s.fsm <;> simp only [currentRequest, hf, Except.ok.injEq, Option.some.injEq, reduceCtorEq] at hq
    case txLoad =>
      obtain ⟨_, -, hq⟩ := except_map_eq_ok.1 hq
      cases hq
      cases resp <;> simp_all [Request.expects, State.Answerable]
    all_goals
      subst hq
      cases resp <;> simp_all [Request.expects, State.Answerable]

theorem onOk_ok (hi : s.Inv) (ha : s.Answerable .ok) : ∃ t, onResponse .ok s = .ok t := by
  obtain hf | hf | hf | hf | hf := ha
  · simp [onResponse, hf]
  · obtain ⟨hr, hp⟩ := hi.runningAt hf
    simp only [onResponse, hf]
    exact afterTransmit_ok hp hi.dataLen
  · simp [onResponse, hf]
  · obtain ⟨hr, hp⟩ := hi.runningAt hf
    simp only [onResponse, hf]
    refine dispatch_ok hr hp ?_
    obtain h | h | ⟨h, hc⟩ := hi.resumed hf <;> simp [State.ReadEnded, *]
  · simp [onResponse, hf]

theorem onStatus_ok (hi : s.Inv) (hf : s.fsm = .rdStatus) (b : Byte) : ∃ t, onStatus b s = .ok t := by
  obtain ⟨hr, hp⟩ := hi.runningAt hf
  unfold onStatus
  split
  · exact ⟨_, rfl⟩
  · split
    · exact dispatch_ok (s := { s with rdres := .empty }) hr hp trivial
    · exact ⟨_, rfl⟩

theorem onLength_ok (b : Byte) : ∃ t, onLength b s = .ok t := by
  unfold onLength
  split
  · exact ⟨_, memWrite_inside (by simp)⟩
  · split <;> exact ⟨_, memWrite_inside (by simp)⟩

theorem onBody_ok {bs : List Byte} (hl : bs.length ≤ s.cfg.maxLen) : ∃ t, onBody bs s = .ok t :=
  ⟨_, memWrite_inside (by simp; omega)⟩

theorem onTrailer_ok (hi : s.Inv) (hf : s.fsm = .rdTrailer) (rssi lqi : Byte) :
    ∃ t, onTrailer rssi lqi s = .ok t := by
  obtain ⟨hr, hp⟩ := hi.runningAt hf
  have hl := hi.trailerLen hf
  rw [onTrailer, memWrite_inside (by simp; omega), except_bind_ok]
  refine dispatch_ok (hr.rxWritten (by simp; omega)) hp ?_
  simpa [State.ReadEnded, byteAt_rx, Mem.read_writeBytes_outside _ hi.rxForm.1] using hl

theorem onBytes_ok (hi : s.Inv) {bs : List Byte} (ha : s.Answerable (.bytes bs)) :
    ∃ t, onResponse (.bytes bs) s = .ok t := by
  obtain ⟨hf, hl⟩ | ⟨hf, hl⟩ | ⟨hf, hl⟩ := ha
  · obtain ⟨b, rfl⟩ := List.length_eq_one_iff.1 hl
    simpa only [onResponse, hf] using onLength_ok b
  · have hle := (hi.bodyLen hf).2
    simpa only [onResponse, hf] using onBody_ok (hl ▸ hle)
  · obtain ⟨rssi, lqi, rfl⟩ := List.length_eq_two.1 hl
    simpa only [onResponse, hf] using onTrailer_ok hi hf rssi lqi

theorem onResponse_ok (hi : s.Inv) {r : Response} (ha : s.Answerable r) : ∃ t, onResponse r s = .ok t := by
  cases r with
  | ok => exact onOk_ok hi ha
  | txOk => simp [onResponse, show s.fsm = .txGo from ha]
  | txUnderflow => simp [onResponse, show s.fsm = .txGo from ha]
  | busTimeout => exact ⟨_, rfl⟩
  | byte b => simpa only [onResponse, show s.fsm = .rdStatus from ha] using onStatus_ok hi ha b
  | bytes bs => exact onBytes_ok hi ha

theorem currentRequest_ok (hi : s.Inv) : ∃ q?, currentRequest s = .ok q? := by
  unfold currentRequest
  split
  case h_5 hf =>
    have hl := hi.txLen hf
    exact except_map_isOk ⟨_, memRead_inside (by simp; omega)⟩
  all_goals exact ⟨_, rfl⟩

theorem onAnswer_ok (hi : s.Inv) (r : Reply) : ∃ t, onAnswer r s = .ok t := by
  unfold onAnswer
  split
  · exact ⟨_, rfl⟩
  · obtain ⟨q?, hq⟩ := currentRequest_ok hi
    rw [hq, except_bind_ok]
    cases q? with
    | none => exact ⟨_, rfl⟩
    | some q =>
      simp only
      split
      · exact ⟨_, rfl⟩
      · next resp c' hc =>
        have hi' : ({ s with chip := c' }.log (.request q resp)).Inv := hi.sameBlock rfl hi.held hi.flagBound
        exact onResponse_ok hi' (answerable_of_respond hq hc)

theorem onTick_ok (hi : s.Inv) : ∃ t, onTick s = .ok t := by
  unfold onTick
  split
  · exact ⟨_, rfl⟩
  · split
    · next hf =>
      split
      · exact ⟨_, rfl⟩
      · exact failAttempt_ok _ (s := { s.log .tick with waitCnt := s.waitCnt + 1 })
          (hi.dataLen (eq_of_beq (hi.runningAt hf).2))
    · next hf =>
      split
      · exact ⟨_, rfl⟩
      · exact startAttempt_ok (s := { s.log .tick with waitCnt := s.waitCnt + 1 })
          (hi.dataLen (eq_of_beq (hi.runningAt hf).2))
    · exact ⟨_, rfl⟩

/-! ## Commands -/

section
variable {w : CmdWord} {body : State → Except Fault State}

theorem begin_next (hb : ∃ t, body (accept w s) = .ok t) : ∃ t, begin w body s = .next t := by
  obtain ⟨t, ht⟩ := hb
  unfold begin
  split
  · exact ⟨t, by rw [ht, outcome_ok]⟩
  · exact ⟨s, rfl⟩

theorem requireLink_ok (hb : ∃ t, body s = .ok t) : ∃ t, requireLink body s = .ok t := by
  unfold requireLink
  split
  · exact hb
  · exact ⟨_, rfl⟩

theorem requireReady_ok (hb : ∃ t, body s = .ok t) : ∃ t, requireReady body s = .ok t := by
  unfold requireReady
  split
  · exact hb
  · exact ⟨_, rfl⟩

theorem requireRange_ok {b : Bool} (hb : b = true → ∃ t, body s = .ok t) : ∃ t, requireRange b body s = .ok t := by
  unfold requireRange
  split
  · next h => exact hb h
  · exact ⟨_, rfl⟩

end

theorem exec_next (hi : s.Inv) (i : Instr) : ∃ t, exec i s = .next t := by
  cases i with
  | sendData n u =>
    exact begin_next (requireReady_ok (requireRange_ok fun hn =>
      except_map_isOk ⟨_, buildRaw_inside (sendDataInRange_iff.1 hn)⟩))
  | sendPacket self dest retries n =>
    exact begin_next (requireLink_ok (requireReady_ok (requireRange_ok fun hn =>
      except_map_isOk ⟨_, buildAddressed_inside (sendPacketInRange_iff.1 hn)⟩)))
  | sendAck self peer u =>
    exact begin_next (requireLink_ok (requireReady_ok (except_map_isOk ⟨_, buildAck_inside hi.params⟩)))
  | recvData u => exact begin_next (requireReady_ok ⟨_, rfl⟩)
  | recvHandle self peer u => exact begin_next (requireLink_ok (requireReady_ok ⟨_, rfl⟩))
  | pktAvail u => rw [exec_pktAvail]; exact begin_next ⟨_, rfl⟩
  | setAddr a u => exact begin_next (requireReady_ok ⟨_, rfl⟩)
  | wrPay idx val u =>
    exact begin_next (requireRange_ok fun hr =>
      except_map_isOk ⟨_, memWrite_inside (Nat.succ_le_of_lt (wrPayInRange_iff.1 hr))⟩)
  | rdRx idx u =>
    exact begin_next (requireRange_ok fun hr =>
      except_map_isOk ⟨_, memRead_inside (Nat.succ_le_succ (rdRxInRange_iff.1 hr))⟩)
  | illegal w => rw [exec_illegal]; exact begin_next ⟨_, rfl⟩
  | frameRaw d => exact ⟨_, rfl⟩
  | frameAddressed dest src d => exact ⟨_, rfl⟩
  | frameAck dest src => exact ⟨_, rfl⟩
  | record p r l => exact ⟨_, rfl⟩
  | rxStatusByte o c =>
    rw [exec_rxStatusByte, execRxStatusByte]
    split
    · next hc =>
      simp only [Bool.and_eq_true, beq_iff_eq] at hc
      have hi' : (s.log (.request .rxStatus (.byte (statusByteOf o c)))).Inv :=
        hi.sameBlock rfl hi.held hi.flagBound
      obtain ⟨t, ht⟩ := onResponse_ok hi' (r := .byte (statusByteOf o c)) hc.2
      exact ⟨t, by rw [ht, outcome_ok]⟩
    · exact ⟨_, rfl⟩

/-! ## Steps -/

theorem react_next (hi : s.Inv) : ∃ t, react s = .next t := by
  have ha : s.advance.Inv := hi.sameBlock rfl hi.held hi.flagBound
  cases he : s.nextEvent with
  | code c =>
    cases hd : decode s.cfg c with
    | ok i => rw [react_code he hd]; exact exec_next ha i
    | error e => exact ⟨_, react_undecoded he hd⟩
  | answer r =>
    obtain ⟨t, ht⟩ := onAnswer_ok ha r
    exact ⟨t, by rw [react_answer he, ht, outcome_ok]⟩
  | poll => exact ⟨_, react_poll he⟩
  | tick =>
    obtain ⟨t, ht⟩ := onTick_ok ha
    exact ⟨t, by rw [react_tick he, ht, outcome_ok]⟩
  | rst b => exact ⟨_, react_rst he⟩
  | initOk b => exact ⟨_, react_initOk he⟩
  | dataReady b => exact ⟨_, react_dataReady he⟩
  | rxArrive bs o => exact ⟨_, react_rxArrive he⟩
  | chipReset => exact ⟨_, react_chipReset he⟩

end
end Sys2Proof.Machine

namespace Sys2Proof.Machine

/-! # No rule reads `OWN_ADDR` (10_state.md R21)

Every part of the sequencer does on a state with another `OWN_ADDR` what it does on the state itself, and carries the
other `OWN_ADDR` through; only the `OK` to the address write puts the command's address in its place. -/

/-- `s` with another `OWN_ADDR`. -/
@[simps] def State.own (a : Byte) (s : State) : State := { s with ownAddr := a }

/-- `f` neither reads nor writes `OWN_ADDR`. -/
def Blind (f : State → Except Fault State) : Prop := ∀ a s, f (s.own a) = (f s).map (State.own a)

section
variable (a : Byte) (s : State)

/-! ## Buffers and frames -/

@[simp] theorem byteAt_own (sp : Space) (i : Nat) : (s.own a).byteAt sp i = s.byteAt sp i := by cases sp <;> rfl

@[simp] theorem memRead_own (sp : Space) (i n : Nat) : memRead sp i n (s.own a) = memRead sp i n s := by
  cases sp <;> rfl

theorem memWrite_blind (sp : Space) (i : Nat) (bs : List Byte) : Blind (memWrite sp i bs) := by
  intro a s
  unfold memWrite
  simp only [State.own_cfg]
  split
  · cases sp <;> rfl
  · rfl

/-- A part that goes on after a blind one is blind. -/
theorem blind_map {f : State → Except Fault State} {g : State → State} (hf : Blind f)
    (hg : ∀ a s, g (s.own a) = (g s).own a) : Blind fun s => (f s).map g := by
  intro a s
  simp only [hf a s]
  cases f s <;> simp [Except.map, hg]

theorem blind_bind {f g : State → Except Fault State} (hf : Blind f) (hg : Blind g) : Blind fun s => (f s).bind g := by
  intro a s
  simp only [hf a s]
  cases f s <;> simp [Except.map, Except.bind, hg a]

theorem buildRaw_blind (n : Byte) : Blind (buildRaw n) := by
  intro a s
  simp only [buildRaw, memRead_own]
  cases memRead .pay 0 n.toNat s with
  | error e => rfl
  | ok d => exact memWrite_blind _ _ _ a s

theorem buildAddressed_blind (self dest n : Byte) : Blind (buildAddressed self dest n) := by
  intro a s
  simp only [buildAddressed, memRead_own]
  cases memRead .pay 0 n.toNat s with
  | error e => rfl
  | ok d => exact memWrite_blind _ _ _ a s

theorem buildAck_blind (self peer : Byte) : Blind (buildAck self peer) :=
  fun a s => memWrite_blind _ _ (ackFrame s.cfg peer self) a s

/-! ## The sequencer -/

theorem startAttempt_blind : Blind startAttempt := fun a s =>
  blind_map (buildAddressed_blind s.xSelf s.xPeer s.xN) (fun _ _ => rfl) a s

theorem retry_blind : Blind retry := by
  intro a s
  unfold retry
  simp only [State.own_retryCnt, State.own_xMaxRetry, State.own_cfg]
  split
  · split
    · exact startAttempt_blind a { s with retryCnt := s.retryCnt + 1, waitCnt := 0 }
    · rfl
  · rfl

theorem failAttempt_blind (e : ErrCode) : Blind (failAttempt e) := fun a s =>
  retry_blind a { s with err := { s.err with att := e } }

theorem afterTransmit_blind : Blind afterTransmit := by
  intro a s
  unfold afterTransmit
  simp only [State.own_ctx, State.own_txres, State.own_cfg, State.own_xPeer]
  split
  case h_4 =>
    split
    · split
      · rfl
      · split
        · rfl
        · exact failAttempt_blind _ a { s with waitCnt := 0 }
    · exact retry_blind a s
  case h_1 | h_2 => split <;> rfl
  all_goals rfl

theorem takeTrailer_blind : Blind takeTrailer := by
  intro a s
  simp only [takeTrailer, byteAt_own, memRead_own]
  cases memRead .rxbuf ((s.byteAt .rxbuf 0).toNat + 1) 2 s <;> rfl

theorem autoAck_blind : Blind autoAck := fun a s =>
  blind_map (buildAck_blind (s.byteAt .rxbuf 1) (s.byteAt .rxbuf 2)) (fun _ _ => rfl) a s

theorem isAck_own (self peer : Byte) : isAck self peer (s.own a) = isAck self peer s := rfl

/-- The reply of `RECV_HANDLE`, or its end with data (41_link.md R127, R128). -/
theorem replyOrFinish_blind :
    Blind fun s => if autoReply s then autoAck s else .ok (finish true .data s) := by
  intro a s
  simp only [show autoReply (s.own a) = autoReply s from rfl]
  split
  · exact autoAck_blind a s
  · rfl

theorem classify_blind : Blind classify := by
  intro a s
  simp only [classify_eq, isAck_own, State.own_xSelf, State.own_xPeer]
  split
  · rfl
  · exact blind_bind takeTrailer_blind replyOrFinish_blind a s.headTaken

theorem dispatchRecvData_blind : Blind dispatchRecvData := by
  intro a s
  unfold dispatchRecvData
  simp only [State.own_rdres]
  split
  case h_1 => exact blind_map takeTrailer_blind (fun _ _ => rfl) a { s with rLen := s.byteAt .rxbuf 0 }
  all_goals rfl

theorem dispatchRecvHandle_blind : Blind dispatchRecvHandle := by
  intro a s
  unfold dispatchRecvHandle
  simp only [State.own_rdres, byteAt_own]
  split
  case h_1 =>
    split
    · rfl
    · split
      · rfl
      · exact classify_blind a s
  all_goals rfl

theorem dispatchSendPacket_blind : Blind dispatchSendPacket := by
  intro a s
  unfold dispatchSendPacket
  simp only [State.own_rdres, isAck_own, State.own_xSelf, State.own_xPeer]
  split
  · split <;> rfl
  · exact retry_blind a s
  · exact failAttempt_blind _ a s
  · exact failAttempt_blind _ a s
  · exact failAttempt_blind _ a s
  · rfl

theorem dispatch_blind : Blind dispatch := by
  intro a s
  unfold dispatch
  simp only [State.own_ctx]
  split
  · exact dispatchRecvData_blind a s
  · exact dispatchRecvHandle_blind a s
  · exact dispatchSendPacket_blind a s
  all_goals rfl

theorem onStatus_blind (b : Byte) : Blind (onStatus b) := by
  intro a s
  unfold onStatus
  split
  · rfl
  · split
    · exact dispatch_blind a { s with rdres := .empty }
    · rfl

theorem onLength_blind (b : Byte) : Blind (onLength b) := by
  intro a s
  unfold onLength
  simp only [State.own_cfg]
  split
  · exact memWrite_blind _ _ _ a { s with rdres := .oversize, fsm := .rdFlush }
  · split
    · exact memWrite_blind _ _ _ a { s with fsm := .rdTrailer }
    · exact memWrite_blind _ _ _ a { s with fsm := .rdBody }

theorem onBody_blind (bs : List Byte) : Blind (onBody bs) := fun a s =>
  memWrite_blind _ _ _ a { s with fsm := .rdTrailer }

theorem onTrailer_blind (rssi lqi : Byte) : Blind (onTrailer rssi lqi) := fun a s =>
  blind_bind (memWrite_blind .rxbuf ((s.byteAt .rxbuf 0).toNat + 1) [rssi, lqi]) dispatch_blind a
    { s with rdres := .ok }

/-- A response carries the other `OWN_ADDR` through, but for the `OK` that writes the command's address (R153). -/
theorem onResponse_own (r : Response) :
    ∃ b, onResponse r (s.own a) = (onResponse r s).map (State.own b) := by
  cases r with
  | busTimeout => exact ⟨a, rfl⟩
  | ok =>
    simp only [onResponse, State.own_fsm]
    split
    · exact ⟨a, rfl⟩
    · exact ⟨a, afterTransmit_blind a s⟩
    · exact ⟨a, rfl⟩
    · exact ⟨a, dispatch_blind a s⟩
    · exact ⟨cwA s.cmdw, rfl⟩
    · exact ⟨a, rfl⟩
  | txOk => refine ⟨a, ?_⟩; simp only [onResponse, State.own_fsm]; split <;> rfl
  | txUnderflow => refine ⟨a, ?_⟩; simp only [onResponse, State.own_fsm]; split <;> rfl
  | byte b =>
    refine ⟨a, ?_⟩
    simp only [onResponse, State.own_fsm]
    split
    · exact onStatus_blind b a s
    · rfl
  | bytes bs =>
    refine ⟨a, ?_⟩
    simp only [onResponse, State.own_fsm]
    split
    · exact onLength_blind _ a s
    · exact onBody_blind _ a s
    · exact onTrailer_blind _ _ a s
    · rfl

theorem currentRequest_own : currentRequest (s.own a) = currentRequest s := by
  simp only [currentRequest, State.own_fsm, byteAt_own, memRead_own, State.own_cmdw]

theorem onAnswer_own (r : Reply) : ∃ b, onAnswer r (s.own a) = (onAnswer r s).map (State.own b) := by
  simp only [onAnswer, State.own_ports, currentRequest_own, State.own_chip, State.own_now]
  split
  · exact ⟨a, rfl⟩
  · cases currentRequest s with
    | error e => exact ⟨a, rfl⟩
    | ok q? =>
      cases q? with
      | none => exact ⟨a, rfl⟩
      | some q =>
        simp only [except_bind_ok]
        split
        · exact ⟨a, rfl⟩
        · next resp chip _ => exact onResponse_own a ({ s with chip := chip }.log (.request q resp)) resp

theorem onTick_blind : Blind onTick := by
  intro a s
  simp only [onTick, State.own_ports, State.own_fsm, State.own_waitCnt, State.own_cfg]
  split
  · rfl
  · split
    · split
      · rfl
      · exact failAttempt_blind _ a { s.log .tick with waitCnt := s.waitCnt + 1 }
    · split
      · rfl
      · exact startAttempt_blind a { s.log .tick with waitCnt := s.waitCnt + 1 }
    · rfl

theorem pollTake_own : pollTake (s.own a) = (pollTake s).own a := by
  simp only [pollTake, State.own_cfg]
  split <;> rfl

theorem onPoll_own : onPoll (s.own a) = (onPoll s).own a := by
  simp only [onPoll, poll, pollTake_own, State.own_ports, State.own_fsm]
  split
  · rfl
  · split <;> rfl

theorem thenPoll_own (t : State) (b : Byte) : (s.own a).thenPoll (t.own b) = (s.thenPoll t).own b := by
  simp only [State.thenPoll, State.own_fsm, onPoll_own]
  split <;> rfl

end

/-! ## Commands -/

section
variable {w : CmdWord} {body : State → Except Fault State}

theorem requireLink_blind (hb : Blind body) : Blind (requireLink body) := by
  intro a s
  simp only [requireLink, State.own_cfg]
  split
  · exact hb a s
  · rfl

theorem requireReady_blind (hb : Blind body) : Blind (requireReady body) := by
  intro a s
  simp only [requireReady, State.own_ports]
  split
  · exact hb a s
  · rfl

theorem requireRange_blind {c : State → Bool} (hc : ∀ a s, c (s.own a) = c s) (hb : Blind body) :
    Blind fun s => requireRange (c s) body s := by
  intro a s
  simp only [requireRange, hc]
  split
  · exact hb a s
  · rfl

theorem outcome_own {a : Byte} {r r' : Except Fault State} {t : State} (hr : r' = r.map (State.own a))
    (h : outcome r = .next t) : outcome r' = .next (t.own a) := by
  obtain rfl := outcome_eq_next.1 h
  rw [hr, except_map_ok, outcome_ok]

theorem begin_own {a : Byte} {s t : State} (h : begin w body s = .next t) (hb : Blind body) :
    begin w body (s.own a) = .next (t.own a) := by
  obtain ⟨ha, rfl⟩ | ⟨ha, h⟩ := begin_cases h
  · exact begin_ignores ha
  · rw [begin_accepts (s := s.own a) ha]
    exact outcome_own (hb a (accept w s)) (outcome_eq_next.2 h)

end

theorem exec_own {i : Instr} {s t : State} (a : Byte) (h : exec i s = .next t) :
    ∃ b, exec i (s.own a) = .next (t.own b) := by
  cases i with
  | sendData n u =>
    simp only [exec_sendData, execSendData] at h ⊢
    exact ⟨a, begin_own h (requireReady_blind (requireRange_blind (fun _ _ => rfl) fun a s =>
      blind_map (buildRaw_blind n) (fun _ _ => rfl) a { s with xN := n }))⟩
  | sendPacket self dest retries n =>
    simp only [exec_sendPacket, execSendPacket] at h ⊢
    exact ⟨a, begin_own h (requireLink_blind (requireReady_blind (requireRange_blind (fun _ _ => rfl) fun a s =>
      blind_map (buildAddressed_blind self dest n) (fun _ _ => rfl) a
        { s with xSelf := self, xPeer := dest, xMaxRetry := retries, xN := n, retryCnt := 0x00#8 })))⟩
  | sendAck self peer u =>
    simp only [exec_sendAck, execSendAck] at h ⊢
    exact ⟨a, begin_own h (requireLink_blind (requireReady_blind fun a s =>
      blind_map (buildAck_blind self peer) (fun _ _ => rfl) a { s with xSelf := self, xPeer := peer }))⟩
  | recvData u =>
    simp only [exec_recvData, execRecvData] at h ⊢
    exact ⟨a, begin_own h (requireReady_blind fun _ _ => rfl)⟩
  | recvHandle self peer u =>
    simp only [exec_recvHandle, execRecvHandle] at h ⊢
    exact ⟨a, begin_own h (requireLink_blind (requireReady_blind fun _ _ => rfl))⟩
  | pktAvail u =>
    simp only [exec_pktAvail, execPktAvail] at h ⊢
    exact ⟨a, begin_own h fun a s => by simp only [poll, pollTake_own]; rfl⟩
  | setAddr addr u =>
    simp only [exec_setAddr, execSetAddr] at h ⊢
    exact ⟨a, begin_own h (requireReady_blind fun _ _ => rfl)⟩
  | wrPay idx val u =>
    simp only [exec_wrPay, execWrPay] at h ⊢
    exact ⟨a, begin_own h (requireRange_blind (fun _ _ => rfl)
      (blind_map (memWrite_blind .pay idx.toNat [val]) fun _ _ => rfl))⟩
  | rdRx idx u =>
    simp only [exec_rdRx, execRdRx] at h ⊢
    refine ⟨a, begin_own h (requireRange_blind (fun _ _ => rfl) fun a s => ?_)⟩
    simp only [memRead_own]
    cases memRead .rxbuf idx.toNat 1 s <;> rfl
  | illegal w =>
    simp only [exec_illegal, execIllegal] at h ⊢
    exact ⟨a, begin_own h fun _ _ => rfl⟩
  | frameRaw d => cases h; exact ⟨a, rfl⟩
  | frameAddressed dest src d => cases h; exact ⟨a, rfl⟩
  | frameAck dest src => cases h; exact ⟨a, rfl⟩
  | record p r l => cases h; exact ⟨a, rfl⟩
  | rxStatusByte o c =>
    simp only [exec_rxStatusByte, execRxStatusByte, State.own_ports, State.own_fsm] at h ⊢
    split at h
    · next hc =>
      rw [if_pos hc]
      obtain ⟨b, hb⟩ := onResponse_own a (s.log (.request .rxStatus (.byte (statusByteOf o c))))
        (.byte (statusByteOf o c))
      exact ⟨b, outcome_own hb h⟩
    · next hc =>
      cases h
      rw [if_neg hc]
      exact ⟨a, rfl⟩

/-! ## Steps -/

theorem setDataReady_own (b : Bool) (a : Byte) (s : State) : setDataReady b (s.own a) = (setDataReady b s).own a := by
  simp only [setDataReady, State.own_ports]
  split <;> rfl

theorem react_own {s t : State} (a : Byte) (he : s.nextEvent ≠ .chipReset) (h : react s = .next t) :
    ∃ b, react (s.own a) = .next (t.own b) := by
  obtain ⟨c, i, hc, hd, h⟩ | ⟨c, e, hc, hd, rfl⟩ | ⟨r, hr, h⟩ | ⟨hp, rfl⟩ | ⟨ht, h⟩ | ⟨b, hb, rfl⟩ | ⟨b, hb, rfl⟩ |
    ⟨b, hb, rfl⟩ | ⟨bs, o, hx, rfl⟩ | ⟨hx, rfl⟩ := react_cases h
  · rw [react_code (s := s.own a) hc hd]
    exact exec_own a h
  · exact ⟨a, react_undecoded (s := s.own a) hc hd⟩
  · obtain ⟨b, hb⟩ := onAnswer_own a s.advance r
    exact ⟨b, (react_answer (s := s.own a) hr).trans (outcome_own hb (outcome_eq_next.2 h))⟩
  · exact ⟨a, react_poll (s := s.own a) hp⟩
  · exact ⟨a, (react_tick (s := s.own a) ht).trans (outcome_own (onTick_blind a s.advance) (outcome_eq_next.2 h))⟩
  · cases b with
    | true => exact ⟨0x00#8, react_rst (s := s.own a) hb⟩
    | false => exact ⟨a, react_rst (s := s.own a) hb⟩
  · exact ⟨a, react_initOk (s := s.own a) hb⟩
  · exact ⟨a, (react_dataReady (s := s.own a) hb).trans (congrArg _ (setDataReady_own b a s.advance))⟩
  · exact ⟨a, react_rxArrive (s := s.own a) hx⟩
  · exact absurd hx he

/-- Settles O60: the block takes the same step whatever `OWN_ADDR` is, and only the chip's own reset replays it. -/
theorem ownAddrIsReadByNoRule : Obligations.OwnAddrIsReadByNoRule := by
  refine ⟨fun s a hi he => ?differ, fun s he => ?reset⟩
  case differ =>
    obtain ⟨t, ht⟩ := react_next hi
    obtain ⟨b, hb⟩ := react_own a he ht
    refine ⟨s.thenPoll t, (s.thenPoll t).own b, step_of_react ht, ?_, rfl⟩
    rw [← thenPoll_own a s]
    exact step_of_react hb
  case reset => exact ⟨_, rfl, step_of_react (react_chipReset he)⟩

end Sys2Proof.Machine

namespace Sys2Proof.Machine

/-! # What two of the named premises exclude (20_memory.md R52) -/

/-! ## Runs -/

theorem reaches_zero_iff {s t : State} : reaches 0 s t ↔ s = t :=
  ⟨fun h => Host.Outcome.next.inj h, congrArg _⟩

/-- A run of one step more begins with a step. -/
theorem reaches_succ_iff {k : Nat} {s t : State} : reaches (k + 1) s t ↔ ∃ u, step s = .next u ∧ reaches k u t := by
  cases h : step s with
  | next u => simp [reaches, run_succ k s u h]
  | fault f =>
    have h' : core.step s = .fault f := h
    simp [reaches, Host.Core.run, h']
  | refused r =>
    have h' : core.step s = .refused r := h
    simp [reaches, Host.Core.run, h']

/-! ## `RX_RECORD_COMPLETE`: no pop leaves the record that is being read -/

theorem recordComplete_iff {c : Chip} :
    c.recordComplete = true ↔ ∃ len rest, c.rxFifo = len :: rest ∧ len.toNat + 2 ≤ rest.length := by
  unfold Chip.recordComplete
  split
  · next h => simp [h]
  · next len rest h => simp [h]

/-- Bytes that arrive behind a complete record leave it complete. -/
theorem recordComplete_of_prefix {c c' : Chip} (hp : c.rxFifo <+: c'.rxFifo) (h : c.recordComplete = true) :
    c'.recordComplete = true := by
  obtain ⟨len, rest, hc, hl⟩ := recordComplete_iff.1 h
  obtain ⟨bs, hbs⟩ := hp
  refine recordComplete_iff.2 ⟨len, rest ++ bs, by rw [← hbs, hc]; rfl, ?_⟩
  rw [List.length_append]
  omega

/-- A record is half read: its length byte, its payload or its trailer is popped next (40_framer.md R94). -/
def Fsm.midRecord : Fsm → Bool
  | .rdLen | .rdBody | .rdTrailer => true
  | _ => false

/-- If `RX_STATUS` is answered with `b`, the chip has the record that `b` reports. -/
def Chip.Backs (c : Chip) (b : Byte) : Prop :=
  statusOvf b = false → statusCnt b ≠ 0#7 → c.recordComplete = true

/-- What response `r` leaves to be read is in the RX FIFO: a record after an `RX_STATUS` byte that reports one, its
payload and trailer after the length byte, its trailer after the payload. -/
def State.Supplies (s : State) : Response → Prop
  | .byte b => s.chip.Backs b
  | .bytes bs =>
    (s.fsm = .rdLen → ∀ b, bs = [b] → b.toNat + 2 ≤ s.chip.rxFifo.length) ∧
    (s.fsm = .rdBody → 2 ≤ s.chip.rxFifo.length)
  | .ok | .txOk | .txUnderflow | .busTimeout => True

section
variable {s t : State}

theorem recordAhead_of_not_midRecord (h : s.fsm.midRecord = false) : s.RecordAhead := by
  refine ⟨fun hf => ?_, fun hf => ?_, fun hf => ?_⟩ <;> simp [hf, Fsm.midRecord] at h

/-- Only the sequencer and a byte that leaves the RX FIFO touch the record that is being read. -/
theorem State.RecordAhead.sameBlock (h : s.RecordAhead) (hb : s.SameBlock t)
    (hp : s.chip.rxFifo <+: t.chip.rxFifo) : t.RecordAhead := by
  obtain ⟨hlen, hbody, htrailer⟩ := h
  rw [hb]
  exact ⟨fun hf => recordComplete_of_prefix hp (hlen hf), fun hf => (hbody hf).trans hp.length_le,
    fun hf => (htrailer hf).trans hp.length_le⟩

/-! ### The outstanding pop -/

theorem currentRequest_rxfifoPop {j : Nat} (h : currentRequest s = .ok (some (.rxfifoPop j))) :
    (s.fsm = .rdLen ∧ j = 1) ∨ (s.fsm = .rdBody ∧ j = (s.byteAt .rxbuf 0).toNat) ∨ (s.fsm = .rdTrailer ∧ j = 2) := by
  unfold currentRequest at h
  split at h
  case h_5 =>
    obtain ⟨_, -, h⟩ := except_map_eq_ok.1 h
    cases h
  all_goals cases h
  · next hf => exact .inl ⟨hf, rfl⟩
  · next hf => exact .inr (.inl ⟨hf, rfl⟩)
  · next hf => exact .inr (.inr ⟨hf, rfl⟩)

theorem currentRequest_rxStatus (h : currentRequest s = .ok (some .rxStatus)) : s.fsm = .rdStatus := by
  unfold currentRequest at h
  split at h
  case h_5 =>
    obtain ⟨_, -, h⟩ := except_map_eq_ok.1 h
    cases h
  all_goals cases h
  assumption

/-- With the rest of the record in the RX FIFO, the outstanding pop stays inside it. -/
theorem State.RecordAhead.pop_le {j : Nat} (h : s.RecordAhead)
    (hq : currentRequest s = .ok (some (.rxfifoPop j))) : j ≤ s.chip.rxFifo.length := by
  obtain ⟨hlen, hbody, htrailer⟩ := h
  obtain ⟨hf, rfl⟩ | ⟨hf, rfl⟩ | ⟨hf, rfl⟩ := currentRequest_rxfifoPop hq
  · obtain ⟨len, rest, hc, -⟩ := recordComplete_iff.1 (hlen hf)
    simp [hc]
  · exact (Nat.le_add_right _ 2).trans (hbody hf)
  · exact htrailer hf

/-- A pop inside the content answers the content, with no free byte (R54). -/
theorem respond_rxfifoPop_inside {now j : Nat} {c : Chip} (h : j ≤ c.rxFifo.length) :
    c.respond now (.rxfifoPop j) .done =
      some (.bytes (c.rxFifo.take j), { c with rxFifo := c.rxFifo.drop j }) := by
  simp only [Chip.respond, popBytes_inside h]

/-! ### The rows -/

theorem startAttempt_midRecord (h : startAttempt s = .ok t) : t.fsm.midRecord = false := by
  obtain ⟨-, rfl⟩ := startAttempt_eq_ok h; rfl

theorem retry_midRecord (h : retry s = .ok t) : t.fsm.midRecord = false := by
  obtain ⟨-, -, rfl⟩ | ⟨-, -, h⟩ | ⟨-, rfl⟩ := retry_cases h
  · rfl
  · exact startAttempt_midRecord h
  · rfl

theorem failAttempt_midRecord {e : ErrCode} (h : failAttempt e s = .ok t) : t.fsm.midRecord = false :=
  retry_midRecord h

theorem TransmitRow.midRecord (h : TransmitRow s t) : t.fsm.midRecord = false := by
  cases h with
  | noWait _ _ _ _ h => exact failAttempt_midRecord h
  | failed _ _ h => exact retry_midRecord h
  | _ => rfl

theorem ReadRow.midRecord (h : ReadRow s t) : t.fsm.midRecord = false := by
  cases h with
  | retried _ _ h => exact retry_midRecord h
  | waitFailed _ _ h => exact failAttempt_midRecord h
  | _ => rfl

/-- A row that begins or goes on with a record finds the rest of it in the RX FIFO. -/
theorem ResponseRow.recordAhead {r : Response} (h : ResponseRow s r t) (hm : Mem.wf s.rxbuf = true)
    (hs : s.Supplies r) : t.RecordAhead := by
  cases h with
  | txRxgo _ h => exact recordAhead_of_not_midRecord h.midRecord
  | rdRxgo _ h => exact recordAhead_of_not_midRecord h.midRecord
  | empty _ _ _ h => exact recordAhead_of_not_midRecord h.midRecord
  | rdTrailer _ _ h => exact recordAhead_of_not_midRecord h.midRecord
  | available _ hb hn => exact ⟨fun _ => hs hb hn, nofun, nofun⟩
  | noPayload hf =>
    obtain ⟨hleft, -⟩ := hs
    exact ⟨nofun, nofun, fun _ => hleft hf _ rfl⟩
  | @payload b hf =>
    obtain ⟨hleft, -⟩ := hs
    refine ⟨nofun, fun _ => ?_, nofun⟩
    rw [byteAt_rx, read_writeBytes_head b [] hm]
    exact hleft hf b rfl
  | rdBody hf =>
    obtain ⟨-, hleft⟩ := hs
    exact ⟨nofun, nofun, fun _ => hleft hf⟩
  | _ => exact recordAhead_of_not_midRecord rfl

/-- The popped bytes are the length byte or the payload of the record ahead, and the rest of it stays. -/
theorem State.RecordAhead.supplies_pop {k : Nat} {c : Chip} (ha : s.RecordAhead)
    (hq : currentRequest s = .ok (some (.rxfifoPop k))) (hc : c.rxFifo = s.chip.rxFifo.drop k) (i : Interaction) :
    ({ s with chip := c }.log i).Supplies (.bytes (s.chip.rxFifo.take k)) := by
  obtain ⟨hlen, hbody, -⟩ := ha
  have hk := currentRequest_rxfifoPop hq
  refine ⟨fun hf b hb => ?_, fun hf => ?_⟩
  · have hf : s.fsm = .rdLen := hf
    obtain rfl : k = 1 := by simpa [hf] using hk
    obtain ⟨len, rest, hfifo, hl⟩ := recordComplete_iff.1 (hlen hf)
    obtain rfl : len = b := by simpa [hfifo] using hb
    simpa [hc, hfifo] using hl
  · have hf : s.fsm = .rdBody := hf
    obtain rfl : k = (s.byteAt .rxbuf 0).toNat := by simpa [hf] using hk
    have := hbody hf
    simp [hc]
    omega

theorem State.RecordAhead.supplies {r : Reply} {q : Request} {resp : Response} {c : Chip} (ha : s.RecordAhead)
    (hq : currentRequest s = .ok (some q)) (hc : s.chip.respond s.now q r = some (resp, c))
    (hb : s.fsm = .rdStatus → r = .done → s.chip.Backs (s.chip.statusByte s.now)) (i : Interaction) :
    ({ s with chip := c }.log i).Supplies resp := by
  cases r with
  | busTimeout => cases hc; trivial
  | txUnderflow =>
    obtain rfl := respond_txUnderflow_iff.1 ⟨_, hc⟩
    cases hc
    trivial
  | done =>
    cases q with
    | rxStatus => cases hc; exact hb (currentRequest_rxStatus hq) rfl
    | rxfifoPop k =>
      rw [respond_rxfifoPop_inside (ha.pop_le hq)] at hc
      cases hc
      exact ha.supplies_pop hq rfl i
    | _ => cases hc; trivial

/-! ### Events -/

theorem onAnswer_recordAhead {r : Reply} (hi : s.Inv) (ha : s.RecordAhead)
    (hb : s.fsm = .rdStatus → r = .done → s.chip.Backs (s.chip.statusByte s.now)) (h : onAnswer r s = .ok t) :
    t.RecordAhead := by
  obtain rfl | ⟨q, resp, chip, -, hq, hc, h⟩ := onAnswer_cases h
  · exact ha
  · exact (onResponse_row h).recordAhead hi.rxForm.1 (ha.supplies hq hc hb _)

theorem ExecRow.recordAhead {i : Instr} (h : ExecRow s i t) (hi : s.Inv) (ha : s.RecordAhead)
    (hb : ∀ o c, i = .rxStatusByte o c → s.fsm = .rdStatus → s.chip.Backs (statusByteOf o c)) : t.RecordAhead := by
  cases h with
  | ignored => exact ha
  | received => exact ha.sameBlock rfl (List.prefix_append _ _)
  | @statusAnswered o c _ _ hf h => exact h.recordAhead hi.rxForm.1 (hb o c rfl hf)
  | statusUnasked => exact ha
  | _ => exact recordAhead_of_not_midRecord rfl

theorem onTick_recordAhead (ha : s.RecordAhead) (h : onTick s = .ok t) : t.RecordAhead := by
  obtain ⟨-, rfl⟩ | ⟨-, -, -, rfl⟩ | ⟨-, -, -, h⟩ | ⟨-, hf, -, rfl⟩ | ⟨-, -, -, h⟩ := onTick_cases h
  · exact ha
  · exact recordAhead_of_not_midRecord rfl
  · exact recordAhead_of_not_midRecord (failAttempt_midRecord h)
  · exact recordAhead_of_not_midRecord (by simp [hf, Fsm.midRecord])
  · exact recordAhead_of_not_midRecord (startAttempt_midRecord h)

theorem setRst_recordAhead (b : Bool) (ha : s.RecordAhead) : (setRst b s).RecordAhead := by
  cases b with
  | true => exact recordAhead_of_not_midRecord rfl
  | false => exact ha.sameBlock rfl List.prefix_rfl

theorem setDataReady_recordAhead (b : Bool) (ha : s.RecordAhead) : (setDataReady b s).RecordAhead := by
  unfold setDataReady
  simp only
  split <;> exact ha.sameBlock rfl List.prefix_rfl

theorem thenPoll_recordAhead (s : State) (ha : t.RecordAhead) : (s.thenPoll t).RecordAhead := by
  by_cases ht : t.ports.rst = true ∨ t.fsm ≠ .ackPoll
  · rwa [thenPoll_left ht]
  · simp only [ne_eq, not_or, Bool.not_eq_true, not_not] at ht
    obtain ⟨hr, hf⟩ := ht
    by_cases hs : s.fsm = .ackPoll
    · rw [thenPoll_ackPoll hs hr hf]
      refine recordAhead_of_not_midRecord ?_
      dsimp only
      split <;> rfl
    · rwa [thenPoll_other hs]

/-- The premise speaks of every answer to an outstanding `RX_STATUS`. -/
theorem awaits_of_statusAnswer {b : Byte} (hr : s.ports.rst = false) (hf : s.fsm = .rdStatus)
    (h : s.statusAnswer = some b) : s.awaits s.nextEvent = true := by
  unfold State.statusAnswer at h
  split at h
  · next he => simp [State.awaits, he, hr, hf, Fsm.requests]
  · next he => simp [State.awaits, he, hr, hf]
  · cases h

/-- `RX_RECORD_COMPLETE` at the step that answers `RX_STATUS`. -/
theorem RxRecordComplete.backs {n : Nat} {b : Byte} (h : RxRecordComplete (n + 1) s) (hi : s.Inv)
    (hf : s.fsm = .rdStatus) (hb : s.statusAnswer = some b) : s.chip.Backs b :=
  h 0 s b n.succ_pos (reaches_zero_iff.2 rfl) hf
    (awaits_of_statusAnswer (hi.runningAt hf).1.released hf hb) hb

/-- The premise for the steps after the first. -/
theorem RxRecordComplete.after_step {n : Nat} (h : RxRecordComplete (n + 1) s) (hs : step s = .next t) :
    RxRecordComplete n t :=
  fun k u b hk hu => h (k + 1) u b (Nat.succ_lt_succ hk) (reaches_succ_iff.2 ⟨t, hs, hu⟩)

theorem react_recordAhead {n : Nat} (hi : s.Inv) (ha : s.RecordAhead) (hc : RxRecordComplete (n + 1) s)
    (h : react s = .next t) : t.RecordAhead := by
  have hi' : s.advance.Inv := hi.sameBlock rfl hi.held hi.flagBound
  have ha' : s.advance.RecordAhead := ha.sameBlock rfl List.prefix_rfl
  obtain ⟨c, i, he, hd, h⟩ | ⟨c, e, -, -, rfl⟩ | ⟨r, he, h⟩ | ⟨-, rfl⟩ | ⟨-, h⟩ | ⟨b, -, rfl⟩ | ⟨b, -, rfl⟩ |
    ⟨b, -, rfl⟩ | ⟨bs, o, -, rfl⟩ | ⟨-, rfl⟩ := react_cases h
  · refine (exec_row h).recordAhead hi' ha' fun o cnt hio hf => hc.backs hi hf ?_
    subst hio
    simp [State.statusAnswer, he, ← encode_of_decode hd, encode]
  · exact ha'
  · refine onAnswer_recordAhead hi' ha' (fun hf hr => hc.backs hi hf ?_) h
    subst hr
    simp [State.statusAnswer, he]
  · exact ha'
  · exact onTick_recordAhead ha' h
  · exact setRst_recordAhead b ha'
  · exact ha'.sameBlock rfl List.prefix_rfl
  · exact setDataReady_recordAhead b ha'
  · exact ha'.sameBlock rfl (List.prefix_append _ _)
  · exact ha'.sameBlock rfl List.prefix_rfl

theorem step_recordAhead {n : Nat} (hi : s.Inv) (ha : s.RecordAhead) (hc : RxRecordComplete (n + 1) s)
    (h : step s = .next t) : t.RecordAhead := by
  obtain ⟨u, hu, rfl⟩ := step_eq_next.1 h
  exact thenPoll_recordAhead s (react_recordAhead hi ha hc hu)

end

/-- Along a run under `RX_RECORD_COMPLETE` the rest of every record that is being read is in the RX FIFO. -/
theorem recordAhead_of_reaches {k : Nat} : ∀ {n : Nat} {s t : State}, s.Inv → s.RecordAhead →
    RxRecordComplete n s → k ≤ n → reaches k s t → t.RecordAhead := by
  induction k with
  | zero =>
    intro n s t _ ha _ _ h
    rwa [← reaches_zero_iff.1 h]
  | succ k ih =>
    intro n s t hi ha hc hk h
    obtain ⟨m, rfl⟩ : ∃ m, n = m + 1 := ⟨n - 1, by omega⟩
    obtain ⟨u, hu, h⟩ := reaches_succ_iff.1 h
    exact ih (step_inv hi hu) (step_recordAhead hi ha hc hu) (hc.after_step hu) (by omega) h

/-! ## `CHIP_FILTERS`: the RX FIFO holds whole records for this station -/

section
variable {p : Params} {addr : Byte}

/-- The bound on the number of records does not matter once it is the number of bytes. -/
theorem recordsFor_bound {n m : Nat} : ∀ {bs : List Byte}, bs.length ≤ n → bs.length ≤ m →
    recordsFor p addr n bs = recordsFor p addr m bs := by
  induction n generalizing m with
  | zero =>
    intro bs hn _
    obtain rfl := List.length_eq_zero_iff.1 (Nat.le_zero.1 hn)
    simp [recordsFor]
  | succ n ih =>
    intro bs hn hm
    match bs, m with
    | [], _ => simp [recordsFor]
    | len :: rest, m + 1 =>
      simp only [List.length_cons, Nat.add_le_add_iff_right] at hn hm
      simp only [recordsFor]
      rw [ih (m := m) (by simp; omega) (by simp; omega)]

theorem framesFor_nil : framesFor p addr [] = true := rfl

/-- Whole records for a station: one of them, and behind it whole records for the station. -/
theorem framesFor_cons_iff {len : Byte} {rest : List Byte} :
    framesFor p addr (len :: rest) = true ↔
      1 ≤ len.toNat ∧ len.toNat + 2 ≤ rest.length ∧
      (∃ dest, rest.head? = some dest ∧ (dest = addr ∨ dest = p.broadcastAddr)) ∧
      framesFor p addr (rest.drop (len.toNat + 2)) = true := by
  have hb : recordsFor p addr rest.length (rest.drop (len.toNat + 2)) =
      framesFor p addr (rest.drop (len.toNat + 2)) := recordsFor_bound (by simp) le_rfl
  rw [framesFor, List.length_cons, recordsFor.eq_def]
  simp only [hb]
  cases rest <;> simp [isBroadcast, and_assoc]

theorem framesFor_append {xs ys : List Byte} (hx : framesFor p addr xs = true) (hy : framesFor p addr ys = true) :
    framesFor p addr (xs ++ ys) = true := by
  match xs with
  | [] => exact hy
  | len :: rest =>
    obtain ⟨hpos, hl, ⟨dest, hd, hdest⟩, hrest⟩ := framesFor_cons_iff.1 hx
    rw [List.cons_append]
    refine framesFor_cons_iff.2 ⟨hpos, by simp; omega, ⟨dest, by simp [hd], hdest⟩, ?_⟩
    rw [List.drop_append_of_le_length hl]
    exact framesFor_append hrest hy
termination_by xs.length
decreasing_by simp

/-- The record at the head of such a FIFO is for the station, and so is what stands behind it. -/
theorem framesFor_fifoWith {payload : List Byte} {t0 t1 : Byte} {rest : List Byte} (hl : payload.length ≤ 255)
    (h : framesFor p addr (fifoWith payload t0 t1 rest) = true) :
    ∃ dest more, payload = dest :: more ∧ (dest = addr ∨ dest = p.broadcastAddr) ∧ framesFor p addr rest = true := by
  obtain ⟨hpos, -, ⟨dest, hd, hdest⟩, hrest⟩ := framesFor_cons_iff.1 h
  rw [lenByte_toNat hl] at hpos hrest
  cases payload with
  | nil => simp at hpos
  | cons d more =>
    obtain rfl : d = dest := by simpa using hd
    exact ⟨d, more, rfl, hdest, by simpa using hrest⟩

end

section
variable {s t : State}

/-- A byte string reaches the radio and nothing else. -/
theorem ExecRow.receive_of_bytes {i : Instr} {fmt : ByteFormat} {frame : List Byte} (h : ExecRow s i t)
    (he : encode s.cfg i = .bytes fmt frame) : ∃ bs, t = receive bs s := by
  cases h with
  | received => exact ⟨_, rfl⟩
  | ignored _ hw => cases hw.symm.trans he
  | refused _ hw => cases hw.symm.trans he
  | _ => cases he

/-- An event that brings bytes puts them behind what the RX FIFO holds and leaves the chip's address. -/
theorem react_of_delivers (hd : s.delivers = true) (h : react s = .next t) :
    s.chip.rxFifo <+: t.chip.rxFifo ∧ t.chip.addr = s.chip.addr := by
  unfold State.delivers at hd
  split at hd
  · next fmt frame he =>
    cases hc : decode s.cfg (.bytes fmt frame) with
    | ok i =>
      rw [react_code he hc] at h
      obtain ⟨bs, rfl⟩ := (exec_row h).receive_of_bytes (encode_of_decode hc)
      exact ⟨List.prefix_append _ _, rfl⟩
    | error e =>
      rw [react_undecoded he hc] at h
      cases h
      exact ⟨List.prefix_rfl, rfl⟩
  · next he =>
    rw [react_rxArrive he] at h
    cases h
    exact ⟨List.prefix_append _ _, rfl⟩
  · cases hd

@[simp] theorem thenPoll_chip (s t : State) : (s.thenPoll t).chip = t.chip := by rw [thenPoll_eq]

/-- A step that delivers adds the delivered bytes to the RX FIFO and leaves the chip's address. -/
theorem step_of_delivers (hd : s.delivers = true) (h : step s = .next t) :
    t.chip.rxFifo = s.chip.rxFifo ++ s.delivered t ∧ t.chip.addr = s.chip.addr := by
  obtain ⟨u, hu, rfl⟩ := step_eq_next.1 h
  obtain ⟨⟨bs, hbs⟩, haddr⟩ := react_of_delivers hd hu
  simp [State.delivered, hd, ← hbs, haddr]

/-- `CHIP_FILTERS` at the first step. -/
theorem ChipFilters.delivered {n : Nat} (h : ChipFilters (n + 1) s) (hs : step s = .next t) :
    framesFor s.cfg s.chip.addr (s.delivered t) = true :=
  h 0 s t n.succ_pos (reaches_zero_iff.2 rfl) hs

theorem step_framesFor (hf : framesFor s.cfg s.chip.addr s.chip.rxFifo = true) (hc : ChipFilters 1 s)
    (hd : s.delivers = true) (h : step s = .next t) : framesFor t.cfg t.chip.addr t.chip.rxFifo = true := by
  obtain ⟨hfifo, haddr⟩ := step_of_delivers hd h
  rw [step_cfg h, haddr, hfifo]
  exact framesFor_append hf (hc.delivered h)

end

/-- Settles O48: every row pops at most what is left of the record that `RX_RECORD_COMPLETE` promised; and whole records
for this station behind such records are again whole records for it. -/
theorem premisesKeepReadsWithinFrames : Obligations.PremisesKeepReadsWithinFrames := by
  refine ⟨fun n k s t hi ha hc hk h => ?complete, fun s _ hf => ⟨fun t hc hd h => ?filtered, ?head⟩⟩
  case complete =>
    have ht : t.RecordAhead := recordAhead_of_reaches hi ha hc hk h
    exact ⟨ht, fun j hq => ⟨ht.pop_le hq, fun now => respond_rxfifoPop_inside (ht.pop_le hq)⟩⟩
  case filtered => exact step_framesFor hf hc hd h
  case head =>
    intro payload t0 t1 rest hl hfifo
    exact framesFor_fifoWith hl (hfifo ▸ hf)

end Sys2Proof.Machine

namespace Sys2Proof

/-! # What the decoder reads (30_encoding.md R60 to R72) -/

/-! ## Opcodes (R71, R72) -/

theorem opAssigned_iff {link : Bool} {op : Byte} : opAssigned link op = true ↔
    1 ≤ op.toNat ∧ op.toNat ≤ 9 ∧ (link = true ∨ (op ≠ 0x02#8 ∧ op ≠ 0x03#8 ∧ op ≠ 0x05#8)) := by
  cases link <;> simp [opAssigned, ← BitVec.toNat_inj] <;> omega

/-- Only with the link layer are its three opcodes assigned (R71). -/
theorem linkLayer_of_opAssigned {link : Bool} {op : Byte} (h : opAssigned link op = true)
    (hop : op = 0x02#8 ∨ op = 0x03#8 ∨ op = 0x05#8) : link = true := by
  obtain ⟨-, -, hl | ⟨h2, h3, h5⟩⟩ := opAssigned_iff.1 h
  · exact hl
  · simp [h2, h3, h5] at hop

theorem decodeWord_unassigned {link : Bool} {w : CmdWord} (h : opAssigned link (cwOp w) = false) :
    decodeWord link w = .illegal w := if_pos h

theorem decodeWord_opcode {link : Bool} {w : CmdWord} (h : opAssigned link (cwOp w) = true) :
    (decodeWord link w).opcode = some (cwOp w) := by
  unfold decodeWord
  rw [if_neg (by simp [h])]
  repeat' split
  case isFalse => simp_all [opAssigned]
  all_goals next hop => rw [hop, Instr.opcode]

/-- Settles O4: the opcodes of R71 are 1 to 9, three of them with the link layer only, and the decoder's branches go by
them. -/
theorem unassignedOpcodesAreIllegal : Obligations.UnassignedOpcodesAreIllegal := by
  refine fun link w => ⟨fun hop => ?outside, fun hl hop => ?link, fun h1 h9 hl => ?assigned⟩
  case outside =>
    refine decodeWord_unassigned (Bool.eq_false_of_not_eq_true fun ha => ?_)
    obtain ⟨h1, h9, -⟩ := opAssigned_iff.1 ha
    obtain h0 | h10 := hop
    · simp [h0] at h1
    · omega
  case link =>
    refine decodeWord_unassigned (Bool.eq_false_of_not_eq_true fun ha => ?_)
    simp [linkLayer_of_opAssigned ha hop] at hl
  case assigned => exact decodeWord_opcode (opAssigned_iff.2 ⟨h1, h9, hl⟩)

/-! ## What is encoded is decoded back -/

/-- A command's word decodes to the command: `OP` selects it and each operand is read from its own place. -/
theorem decodeWord_of_encode {p : Params} {i : Instr} {w : CmdWord} (hi : i.wf p = true)
    (hw : encode p i = .word w) : decodeWord p.linkLayer w = i := by
  cases i <;> cases hw
  case illegal => exact decodeWord_unassigned (by simpa [Instr.wf, cwOp] using hi)
  case sendPacket | sendAck | recvHandle =>
    have hl : p.linkLayer = true := hi
    simp [decodeWord, opAssigned, hl]
  all_goals simp [decodeWord, opAssigned]

theorem decodeStatusByte_statusByteOf (ovf : Bool) (cnt : BitVec 7) :
    decodeStatusByte (statusByteOf ovf cnt) = .rxStatusByte ovf cnt := by
  simp [decodeStatusByte]

section
variable {p : Params} {rest : List Byte} (hp : p.maxLen ≤ 255)
include hp

/-- The length tests of the three frame formats pass on the frame of a payload that fits (R60, R67). -/
theorem decodeLength_of_fits {r : Except DecodeError Instr} (hl : rest.length ≤ p.maxLen) :
    (if rest.length ≠ (lenByte rest.length).toNat then .error .lengthMismatch
      else if p.maxLen < rest.length then .error .overMaxLen else r) = r := by
  rw [lenByte_toNat (hl.trans hp), if_neg (not_not.2 rfl), if_neg hl.not_gt]

theorem decodeBytes_rawFrame (hl : rest.length ≤ p.maxLen) :
    decodeBytes p .raw (rawFrame rest) = .ok (.frameRaw rest) :=
  decodeLength_of_fits hp hl

theorem decodeBytes_addressedFrame {dest src : Byte} (hl : rest.length + 2 ≤ p.maxLen) :
    decodeBytes p .addressed (addressedFrame dest src rest) = .ok (.frameAddressed dest src rest) :=
  decodeLength_of_fits (rest := dest :: src :: rest) hp hl

theorem decodeBytes_ackFrame {dest src : Byte} (hl : p.ackTagLen + 2 ≤ p.maxLen) :
    decodeBytes p .ack (ackFrame p dest src) = .ok (.frameAck dest src) :=
  (decodeLength_of_fits (rest := dest :: src :: p.ackTag) hp hl).trans (if_pos rfl)

end

theorem decodeBytes_recordBytes {p : Params} {payload : List Byte} {rssi lqi : Byte} (hl : payload.length ≤ 255) :
    decodeBytes p .record (recordBytes payload rssi lqi) = .ok (.record payload rssi lqi) := by
  simp [decodeBytes, recordBytes, rawFrame, lenByte_toNat hl]

theorem decode_encode {p : Params} {i : Instr} (hp : p.wf = true) (hi : i.wf p = true) :
    decode p (encode p i) = .ok i := by
  obtain ⟨-, -, hmax, -⟩ := Machine.Params.wf_iff.1 hp
  cases i
  case frameRaw => exact decodeBytes_rawFrame hmax (of_decide_eq_true hi)
  case frameAddressed => exact decodeBytes_addressedFrame hmax (of_decide_eq_true hi)
  case frameAck => exact decodeBytes_ackFrame hmax (of_decide_eq_true hi)
  case record => exact decodeBytes_recordBytes (p := p) (of_decide_eq_true hi)
  case rxStatusByte => exact congrArg Except.ok (decodeStatusByte_statusByteOf _ _)
  all_goals exact congrArg Except.ok (decodeWord_of_encode hi rfl)

/-- Settles O1: row by row; a frame's length byte counts what follows, as `MAX_LEN` is at most 255. -/
theorem decodeEncodeRoundTrip : Obligations.DecodeEncodeRoundTrip := fun _ _ hp hi => decode_encode hp hi

/-- Settles O3: the decoder runs on each of the nine. -/
theorem writtenOutWordsDecode : Obligations.WrittenOutWordsDecode :=
  ⟨rfl, rfl, rfl, rfl, rfl, rfl, rfl, rfl, rfl⟩

/-! ## What is decoded is well-formed -/

theorem wf_of_opcode {p : Params} {i : Instr} {op : Byte} (h : i.opcode = some op)
    (ha : opAssigned p.linkLayer op = true) : i.wf p = true := by
  cases i <;> cases h
  case sendPacket | sendAck | recvHandle => exact linkLayer_of_opAssigned ha (by simp)
  all_goals rfl

theorem decodeWord_wf (p : Params) (w : CmdWord) : (decodeWord p.linkLayer w).wf p = true := by
  cases ha : opAssigned p.linkLayer (cwOp w) with
  | false => rw [decodeWord_unassigned ha]; simpa [Instr.wf, cwOp] using ha
  | true => exact wf_of_opcode (decodeWord_opcode ha) ha

/-- The frames whose length tests pass fit (R60). -/
theorem decodeLength_le_maxLen {p : Params} {len : Byte} {rest : List Byte} {r : Except DecodeError Instr} {i : Instr}
    (h : (if rest.length ≠ len.toNat then .error .lengthMismatch
      else if p.maxLen < rest.length then .error .overMaxLen else r) = Except.ok i) :
    rest.length ≤ p.maxLen := by
  split at h
  · cases h
  · split at h
    · cases h
    · next hl => exact not_lt.1 hl

theorem decodeBytes_wf {p : Params} {fmt : ByteFormat} {bs : List Byte} {i : Instr}
    (h : decodeBytes p fmt bs = .ok i) : i.wf p = true := by
  unfold decodeBytes at h
  split at h
  · cases h
  next len rest =>
  split at h
  · split at h
    · cases h
      have ht : (rest.take len.toNat).length ≤ len.toNat := List.length_take_le _ _
      exact decide_eq_true (by have := len.isLt; omega)
    · cases h
  · have hl := decodeLength_le_maxLen h
    obtain ⟨-, h⟩ := decodeLength_eq_ok h
    cases h
    exact decide_eq_true hl
  · have hl := decodeLength_le_maxLen h
    obtain ⟨-, h⟩ := decodeLength_eq_ok h
    split at h
    · cases h
      exact decide_eq_true hl
    · cases h
  · have hl := decodeLength_le_maxLen h
    obtain ⟨-, h⟩ := decodeLength_eq_ok h
    split at h
    · split at h
      · next htag =>
        cases h
        subst htag
        exact decide_eq_true hl
      · cases h
    · cases h

theorem wf_of_decode {p : Params} {c : Code} {i : Instr} (h : decode p c = .ok i) : i.wf p = true := by
  cases c with
  | word w => cases h; exact decodeWord_wf p w
  | status b => cases h; rfl
  | bytes fmt bs => exact decodeBytes_wf h

/-- Settles O2: the decoder keeps every bit of a word and the bytes of a format that it has tested. -/
theorem decodedBitsEncodeBack : Obligations.DecodedBitsEncodeBack :=
  fun _ _ _ h => ⟨encode_of_decode h, wf_of_decode h⟩

end Sys2Proof

namespace Sys2Proof.Machine

/-! # Refused commands (42_system.md R154, R156, 60_exceptions.md R183, R191, R196, R197) -/

theorem raiseRxCode_other {link : Bool} {w : CmdWord} (e : ErrCode) (h : link = false ∨ cwOp w ≠ 0x05#8) :
    raiseRxCode link w e = .ack :=
  if_neg (by obtain h | h := h <;> simp [h])

theorem raiseRxCode_recvHandle {link : Bool} {w : CmdWord} {e : ErrCode} (hl : link = true) (hw : cwOp w = 0x05#8)
    (he : e ≠ .busTimeout) : raiseRxCode link w e = .badFrame := by
  cases e
  case busTimeout => exact absurd rfl he
  all_goals simp [raiseRxCode, hl, hw]

/-- A command whose first lines raise `e` is refused: acceptance and the raise are all that happens. -/
theorem begin_refused {w : CmdWord} {body : State → Except Fault State} {s : State} {e : ErrCode} {rx : RxCode}
    (ha : s.canAccept = true) (hb : body (accept w s) = .ok (raiseError e (accept w s)))
    (hrx : raiseRxCode s.cfg.linkLayer w e = rx) : begin w body s = .next (s.refused w e rx) := by
  rw [begin_accepts ha, hb, ← hrx]
  rfl

/-- Every command but `RECV_HANDLE` is refused with `RXCODE` 0. -/
theorem begin_refused_other {w : CmdWord} {body : State → Except Fault State} {s : State} {e : ErrCode}
    (ha : s.canAccept = true) (hw : cwOp w ≠ 0x05#8) (hb : body (accept w s) = .ok (raiseError e (accept w s))) :
    begin w body s = .next (s.refused w e .ack) :=
  begin_refused ha hb (raiseRxCode_other e (.inr hw))

/-- Settles O19: the raise is the command's only line, and the opcode is not that of `RECV_HANDLE`. -/
theorem illegalCommandEndsAtOnce : Obligations.IllegalCommandEndsAtOnce := by
  intro w s ha hw
  refine begin_refused (body := fun s => .ok (raiseError .illegalCmd s)) ha rfl (raiseRxCode_other _ ?_)
  by_contra! h
  simp [opAssigned, h] at hw

/-- Settles O18: each command's tests in their order, up to the one that raises. -/
theorem refusedCommandsChangeNothing : Obligations.RefusedCommandsChangeNothing := by
  refine fun s ha => ⟨fun hr => ?notReady, fun hr => ?badOperand, ?wrPay, ?rdRx, fun hl => ?noLink⟩
  case notReady =>
    refine ⟨fun _ _ => begin_refused_other ha (by simp) (requireReady_unready hr),
      fun _ => begin_refused_other ha (by simp) (requireReady_unready hr),
      fun _ _ => begin_refused_other ha (by simp) (requireReady_unready hr), fun hl => ?_⟩
    have raises {w : CmdWord} {body : State → Except Fault State} :
        requireLink (requireReady body) (accept w s) = .ok (raiseError .notReady (accept w s)) :=
      (requireLink_present (s := accept w s) hl).trans (requireReady_unready hr)
    exact ⟨fun _ _ _ _ => begin_refused_other ha (by simp) raises,
      fun _ _ _ => begin_refused_other ha (by simp) raises,
      fun _ _ _ => begin_refused ha raises (raiseRxCode_recvHandle hl (by simp) (by simp))⟩
  case badOperand =>
    refine ⟨fun _ _ hn => begin_refused_other ha (by simp) ?_,
      fun hl _ _ _ _ hn => begin_refused_other ha (by simp) ?_⟩
    · exact (requireReady_ready (s := accept _ s) hr).trans (requireRange_outside (decide_eq_false hn.not_ge))
    · exact (requireLink_present (s := accept _ s) hl).trans
        ((requireReady_ready (s := accept _ s) hr).trans (requireRange_outside (decide_eq_false hn.not_ge)))
  case wrPay =>
    exact fun _ _ _ hi => begin_refused_other ha (by simp) (requireRange_outside (decide_eq_false hi.not_gt))
  case rdRx =>
    exact fun _ _ hi => begin_refused_other ha (by simp) (requireRange_outside (decide_eq_false hi.not_ge))
  case noLink =>
    exact ⟨fun _ _ _ _ => begin_refused_other ha (by simp) (requireLink_absent hl),
      fun _ _ _ => begin_refused_other ha (by simp) (requireLink_absent hl),
      fun _ _ _ => begin_refused ha (requireLink_absent hl) (raiseRxCode_other _ (.inl hl))⟩

/-! # The bits of a word that a command does not use (30_encoding.md R70, 93_implementation_defined.md U7)

Of the sampled word the accepting step reads the opcode alone, for the `RXCODE` of an error (60_exceptions.md R197). -/

/-- Both answer, and the answers differ at most in `CMDW`. -/
def SameButWord (r r' : Except Fault State) : Prop :=
  ∃ t t', r = .ok t ∧ r' = .ok t' ∧ { t with cmdw := 0#40 } = { t' with cmdw := 0#40 }

section
variable {w w' : CmdWord} {body : State → Except Fault State} {s : State}

theorem begin_sameButWord (hb : SameButWord (body (accept w s)) (body (accept w' s))) :
    ∃ t t', begin w body s = .next t ∧ begin w' body s = .next t' ∧
      { t with cmdw := 0#40 } = { t' with cmdw := 0#40 } := by
  obtain ⟨t, t', ht, ht', he⟩ := hb
  cases ha : s.canAccept with
  | false => exact ⟨s, s, begin_ignores ha, begin_ignores ha, rfl⟩
  | true => exact ⟨t, t', by rw [begin_accepts ha, ht, outcome_ok], by rw [begin_accepts ha, ht', outcome_ok], he⟩

variable (hw : cwOp w = cwOp w')
include hw

theorem raiseError_sameButWord (e : ErrCode) :
    SameButWord (.ok (raiseError e (accept w s))) (.ok (raiseError e (accept w' s))) :=
  ⟨_, _, rfl, rfl, by simp [raiseError, raiseRxCode, accept, hw]⟩

theorem requireLink_sameButWord (hb : SameButWord (body (accept w s)) (body (accept w' s))) :
    SameButWord (requireLink body (accept w s)) (requireLink body (accept w' s)) := by
  cases h : s.cfg.linkLayer with
  | true =>
    rw [requireLink_present (s := accept w s) h, requireLink_present (s := accept w' s) h]
    exact hb
  | false =>
    rw [requireLink_absent (s := accept w s) h, requireLink_absent (s := accept w' s) h]
    exact raiseError_sameButWord hw _

theorem requireReady_sameButWord (hb : SameButWord (body (accept w s)) (body (accept w' s))) :
    SameButWord (requireReady body (accept w s)) (requireReady body (accept w' s)) := by
  cases h : s.ports.initOk with
  | true =>
    rw [requireReady_ready (s := accept w s) h, requireReady_ready (s := accept w' s) h]
    exact hb
  | false =>
    rw [requireReady_unready (s := accept w s) h, requireReady_unready (s := accept w' s) h]
    exact raiseError_sameButWord hw _

theorem requireRange_sameButWord {inRange : Bool}
    (hb : inRange = true → SameButWord (body (accept w s)) (body (accept w' s))) :
    SameButWord (requireRange inRange body (accept w s)) (requireRange inRange body (accept w' s)) := by
  unfold requireRange
  split
  · next hr => exact hb hr
  · exact raiseError_sameButWord hw _

end

theorem map_sameButWord {α : Type} {r r' : Except Fault α} {g g' : α → State} {x x' : α} (h : r = .ok x)
    (h' : r' = .ok x') (he : { g x with cmdw := 0#40 } = { g' x' with cmdw := 0#40 }) :
    SameButWord (r.map g) (r'.map g') :=
  ⟨_, _, except_map_eq_ok.2 ⟨_, h, rfl⟩, except_map_eq_ok.2 ⟨_, h', rfl⟩, he⟩

/-- Settles O5: each command's two words have one opcode, and its body answers on the accepted states alike. -/
theorem unusedOperandBitsAreIgnored : Obligations.UnusedOperandBitsAreIgnored := by
  intro s a b u16 v16 u24 v24 u32 v32 same hp
  refine ⟨?sendData, ?sendAck, ?recvData, ?recvHandle, ?pktAvail, ?setAddr, ?wrPay, ?rdRx⟩
  case sendData =>
    refine begin_sameButWord (requireReady_sameButWord (by simp) (requireRange_sameButWord (by simp) fun hn => ?_))
    have hn := sendDataInRange_iff.1 hn
    exact map_sameButWord (buildRaw_inside hn) (buildRaw_inside hn) rfl
  case sendAck =>
    refine begin_sameButWord (requireLink_sameButWord (by simp) (requireReady_sameButWord (by simp) ?_))
    exact map_sameButWord (buildAck_inside hp) (buildAck_inside hp) rfl
  case recvData => exact begin_sameButWord (requireReady_sameButWord (by simp) ⟨_, _, rfl, rfl, rfl⟩)
  case recvHandle =>
    exact begin_sameButWord
      (requireLink_sameButWord (by simp) (requireReady_sameButWord (by simp) ⟨_, _, rfl, rfl, rfl⟩))
  case pktAvail =>
    refine begin_sameButWord (body := fun s => .ok (finish (poll s).1 .ack (poll s).2)) ⟨_, _, rfl, rfl, ?_⟩
    simp only [poll, pollTake_accept]
    rfl
  case setAddr => exact begin_sameButWord (requireReady_sameButWord (by simp) ⟨_, _, rfl, rfl, rfl⟩)
  case wrPay =>
    refine begin_sameButWord (requireRange_sameButWord (by simp) fun hi => ?_)
    have hi := Nat.succ_le_of_lt (wrPayInRange_iff.1 hi)
    exact map_sameButWord (memWrite_inside hi) (memWrite_inside hi) rfl
  case rdRx =>
    refine begin_sameButWord (requireRange_sameButWord (by simp) fun hi => ?_)
    have hi := Nat.succ_le_succ (rdRxInRange_iff.1 hi)
    exact map_sameButWord (memRead_inside hi) (memRead_inside hi) rfl

end Sys2Proof.Machine

namespace Sys2Proof.Machine

/-! # The answer to `RX_STATUS` (43_sequencer.md R166 rows 22 to 24)

## A failed attempt of `SEND_PACKET` (41_link.md R124, R125) -/

/-- `BuildAddressed` leaves in `TXBUF` what R91 says. -/
theorem addressedBuilt_writeBytes {self dest n : Byte} {pay old : Mem} (hm : Mem.wf old = true)
    (hn : n.toNat + 2 ≤ 255) :
    AddressedBuilt self dest n pay old
      (Mem.writeBytes old 0 (addressedFrame dest self (Mem.readBytes pay 0 n.toNat))) := by
  have inside (i : Nat) (hi : i < n.toNat + 3) :
      Mem.read (Mem.writeBytes old 0 (addressedFrame dest self (Mem.readBytes pay 0 n.toNat))) i =
        (addressedFrame dest self (Mem.readBytes pay 0 n.toNat))[i]'(by simpa using hi) := by
    simpa using Mem.read_writeBytes_inside (addressedFrame dest self (Mem.readBytes pay 0 n.toNat)) (a := 0)
      (by simpa using hi) hm
  refine ⟨?length, inside 1 (by omega), inside 2 (by omega), fun i hi => ?data, fun i hi => ?above⟩
  case length =>
    rw [inside 0 (by omega)]
    simpa [addressedFrame] using lenByte_toNat hn
  case data =>
    rw [inside (3 + i) (by omega)]
    simp [addressedFrame, Nat.add_comm 3 i]
  case above => exact Mem.read_writeBytes_outside _ hm (.inr (by simp; omega))

section
variable {s t : State}

/-- The opcode test of R197 tells the `CTX` of the command in progress. -/
theorem State.Running.raiseRxCode_eq {e : ErrCode} {op : Byte} (hr : s.Running) (hc : s.ctx.opcode = some op)
    (he : e ≠ .busTimeout) : raiseRxCode s.cfg.linkLayer s.cmdw e = s.ctx.failCode := by
  obtain ⟨-, -, -, -, hcmd, -⟩ := hr
  obtain ⟨hw, ha⟩ := hcmd op hc
  cases hctx : s.ctx <;> rw [hctx] at hc <;> cases hc
  case recvHandle | autoAck => exact raiseRxCode_recvHandle (linkLayer_of_opAssigned ha (by simp)) hw he
  all_goals exact raiseRxCode_other e (.inr (by simp [hw]))

theorem State.Running.retryCnt_succ (hr : s.Running) (hc : s.ctx = .sendPacket) :
    (s.retryCnt + 1).toNat = s.retryCnt.toNat + 1 := by
  obtain ⟨-, -, -, -, -, hpkt⟩ := hr
  have hlt := (hpkt hc).2
  have hmax := s.xMaxRetry.isLt
  rw [State.budget] at hlt
  bv_omega

/-- `RETRY` writes `TXBUF`, the sequencer's registers and the counters only. -/
theorem retry_frame (h : retry s = .ok t) :
    t = { s with
      txbuf := t.txbuf, fsm := t.fsm, ctx := t.ctx, status := t.status, err := t.err, retryCnt := t.retryCnt,
      waitCnt := t.waitCnt } := by
  obtain ⟨-, -, rfl⟩ | ⟨-, -, h⟩ | ⟨-, rfl⟩ := retry_cases h
  · rfl
  · obtain ⟨-, rfl⟩ := startAttempt_eq_ok h
    rfl
  · rfl

/-- What a failed attempt does: `RETRY` waits, starts the next attempt at once, or gives up. -/
theorem failAttempt_attemptFailed {e : ErrCode} (hr : s.Running) (hc : s.ctx = .sendPacket)
    (h : failAttempt e s = .ok t) : s.AttemptFailed e t := by
  have hsucc := hr.retryCnt_succ hc
  have hcode : raiseRxCode s.cfg.linkLayer s.cmdw .retries = .ack :=
    (hr.raiseRxCode_eq (by rw [hc]; rfl) (by simp)).trans (by rw [hc]; rfl)
  obtain ⟨⟨hcfg, hbuf, -⟩, -, -, -, -, hpkt⟩ := hr
  obtain ⟨-, -, hmax, -⟩ := Params.wf_iff.1 hcfg
  obtain ⟨(hlt : (s.retryCnt + 1).toNat < s.xMaxRetry.toNat), (hB : s.cfg.backoffTicks ≠ 0), rfl⟩ |
    ⟨(hlt : (s.retryCnt + 1).toNat < s.xMaxRetry.toNat), (hB : s.cfg.backoffTicks = 0), h⟩ |
    ⟨(hle : s.xMaxRetry.toNat ≤ (s.retryCnt + 1).toNat), rfl⟩ := retry_cases h
  · exact ⟨rfl, rfl, hsucc, fun _ => ⟨hc, rfl, rfl, rfl, fun h0 => absurd h0 hB, fun _ => ⟨rfl, rfl⟩⟩,
      fun hle => by omega⟩
  · obtain ⟨-, rfl⟩ := startAttempt_eq_ok h
    have hbuilt := addressedBuilt_writeBytes (self := s.xSelf) (dest := s.xPeer) (pay := s.pay) (hbuf .txbuf).1
      ((hpkt hc).1.trans hmax)
    exact ⟨rfl, rfl, hsucc, fun _ => ⟨hc, rfl, rfl, rfl, fun _ => ⟨rfl, hbuilt⟩, fun h0 => by omega⟩,
      fun hle => by omega⟩
  · exact ⟨rfl, rfl, hsucc, fun hlt => by omega,
      fun _ => ⟨rfl, rfl, rfl, rfl, congrArg (Status.mk false true false) hcode⟩⟩

theorem failAttempt_next (e : ErrCode) (hr : s.Running) (hc : s.ctx = .sendPacket) :
    ∃ t, failAttempt e s = .ok t ∧ s.AttemptFailed e t ∧ t = { s with
      txbuf := t.txbuf, fsm := t.fsm, ctx := t.ctx, status := t.status, err := t.err, retryCnt := t.retryCnt,
      waitCnt := t.waitCnt } := by
  have ⟨_, _, _, _, _, hpkt⟩ := hr
  obtain ⟨t, ht⟩ := failAttempt_ok e (hpkt hc).1
  exact ⟨t, ht, failAttempt_attemptFailed hr hc ht, retry_frame (s := { s with err := { s.err with att := e } }) ht⟩

/-! ## The byte -/

variable {ovf : Bool} {cnt : BitVec 7}

/-- While `RX_STATUS` is outstanding the byte answers it (log 9). -/
theorem execRxStatusByte_asked (hr : s.ports.rst = false) (hf : s.fsm = .rdStatus) :
    execRxStatusByte ovf cnt s = outcome (onStatus (statusByteOf ovf cnt)
      (s.log (.request .rxStatus (.byte (statusByteOf ovf cnt))))) := by
  simp [execRxStatusByte, onResponse, hr, hf]

theorem execRxStatusByte_unasked (h : s.ports.rst = true ∨ s.fsm ≠ .rdStatus) :
    execRxStatusByte ovf cnt s = .next s := by
  obtain h | h := h <;> simp [execRxStatusByte, h]

theorem onStatus_overflow {b : Byte} (hb : statusOvf b = true) :
    onStatus b s = .ok { s with rdres := .overflow, fsm := .rdFlush } := if_pos hb

theorem onStatus_available {b : Byte} (hb : statusOvf b = false) (hn : statusCnt b ≠ 0#7) :
    onStatus b s = .ok { s with fsm := .rdLen } := by simp [onStatus, hb, hn]

/-- An empty RX FIFO ends a receive command (40_framer.md R99, 41_link.md R127). -/
theorem onStatus_receiveEmpty {b : Byte} (hb : statusOvf b = false) (hn : statusCnt b = 0#7)
    (hc : s.ctx = .recvData ∨ s.ctx = .recvHandle) :
    onStatus b s = .ok (raiseError .empty { s with rdres := .empty }) := by
  obtain hc | hc := hc <;> simp [onStatus, dispatch, dispatchRecvData, dispatchRecvHandle, hb, hn, hc]

/-- An empty RX FIFO fails the attempt that waits for an ACK (41_link.md R124). -/
theorem onStatus_waitEmpty {b : Byte} (hb : statusOvf b = false) (hn : statusCnt b = 0#7) (hc : s.ctx = .sendPacket) :
    onStatus b s = failAttempt .empty { s with rdres := .empty } := by
  simp [onStatus, dispatch, dispatchSendPacket, hb, hn, hc]

end

/-- Settles O46: the byte is taken by `onStatus`; an empty FIFO then goes by `CTX`, whose opcode stands in `CMDW`. -/
theorem statusByteAnswersRxStatus : Obligations.StatusByteAnswersRxStatus := by
  intro s ovf cnt hi line
  refine ⟨fun hr hf => ⟨?overflow, ?available, ?receive, ?wait⟩, execRxStatusByte_unasked⟩
  all_goals rw [exec_rxStatusByte, execRxStatusByte_asked hr hf]
  case overflow =>
    intro ho
    rw [onStatus_overflow (by simpa using ho)]
    rfl
  case available =>
    intro ho hn
    rw [onStatus_available (by simpa using ho) (by simpa using hn)]
    rfl
  case receive =>
    intro ho hn hc
    have hcode : raiseRxCode s.cfg.linkLayer s.cmdw .empty = s.ctx.failCode := by
      obtain hc | hc := hc <;> exact (hi.runningAt hf).1.raiseRxCode_eq (by rw [hc]; rfl) (by simp)
    rw [onStatus_receiveEmpty (s := s.log _) (by simpa using ho) (by simpa using hn) hc, ← hcode]
    rfl
  case wait =>
    intro ho hn hc
    rw [onStatus_waitEmpty (s := s.log _) (by simpa using ho) (by simpa using hn) hc]
    obtain ⟨t, ht, hfail, hframe⟩ := failAttempt_next .empty
      (s := { s.log (.request .rxStatus (.byte (statusByteOf ovf cnt))) with rdres := .empty })
      (hi.runningAt hf).1 hc
    refine ⟨t, by rw [ht, outcome_ok], hfail, ?_⟩
    rw [hframe]
    exact ⟨rfl, rfl, rfl, rfl, rfl, rfl, rfl⟩

/-- Settles O45: each row is its reception; a frame's two trailer bytes are the radio's. -/
theorem receivedFramesJoinTheFifo : Obligations.ReceivedFramesJoinTheFifo :=
  fun _ => ⟨fun _ => ⟨_, _, rfl⟩, fun _ _ _ => ⟨_, _, rfl⟩, fun _ _ => ⟨_, _, rfl⟩, fun _ _ _ => rfl⟩

end Sys2Proof.Machine

namespace Sys2Proof.Machine

/-! # The trailer's values (40_framer.md R95 to R97) -/

/-- Below 128 the raw byte is halved as it is. -/
theorem rssiToDbm_low {r : Byte} (o : Byte) (h : r.toNat < 128) :
    rssiToDbm r o = ((r.toNat / 2 : Nat) : Int) - o.toNat := by
  rw [rssiToDbm, if_neg (by omega), Int.ofNat_tdiv]
  rfl

/-- From 128 on the raw byte stands for a negative number, whose halving truncates toward zero. -/
theorem rssiToDbm_high {r : Byte} (o : Byte) (h : 128 ≤ r.toNat) :
    rssiToDbm r o = -(((256 - r.toNat) / 2 : Nat) : Int) - o.toNat := by
  have hneg : (r.toNat : Int) - 256 = -((256 - r.toNat : Nat) : Int) := by omega
  rw [rssiToDbm, if_pos h, hneg, Int.neg_tdiv, Int.ofNat_tdiv]
  rfl

/-- Settles O6: the two pieces, with the magnitude of the second halved; all else is arithmetic of bytes. -/
theorem rssiFollowsThePiecewiseFormula : Obligations.RssiFollowsThePiecewiseFormula := by
  refine ⟨fun r o => ?_, fun _ => rfl, by decide⟩
  have hr := r.isLt
  have ho := o.isLt
  refine ⟨rssiToDbm_low o, rssiToDbm_high o, fun _ h => ?odd, fun ⟨_, h⟩ => ?even, ?range⟩
  case odd =>
    rw [rssiToDbm_high o (by omega), Int.fdiv_eq_ediv_of_nonneg _ (by decide)]
    omega
  case even =>
    rw [rssiToDbm_high o h, Int.fdiv_eq_ediv_of_nonneg _ (by decide)]
    omega
  case range =>
    obtain h | h := Nat.lt_or_ge r.toNat 128
    · rw [rssiToDbm_low o h]
      omega
    · rw [rssiToDbm_high o h]
      omega

theorem lqiConvert_toNat (b : Byte) : (lqiConvert b).toNat = b.toNat % 128 := by
  rw [lqiConvert, BitVec.toNat_and]
  exact Nat.and_two_pow_sub_one_eq_mod b.toNat 7

theorem crcOk_iff {b : Byte} : crcOk b = true ↔ 128 ≤ b.toNat := by
  have := b.isLt
  simp only [crcOk, BitVec.getLsbD, Nat.testBit_eq_decide_div_mod_eq, decide_eq_true_eq]
  omega

theorem and_0x80_ne_zero_iff {b : Byte} : b &&& 0x80#8 ≠ 0#8 ↔ crcOk b = true := by
  have hb : b &&& 0x80#8 = b &&& BitVec.twoPow 8 7 := rfl
  rw [hb, BitVec.and_twoPow]
  rw [crcOk]
  cases b.getLsbD 7 <;> simp

/-- Settles O7: bit 7 is the byte's 128, and the other seven bits its remainder. -/
theorem lqiAndCrcOkSplitTheByte : Obligations.LqiAndCrcOkSplitTheByte := by
  refine fun b => ⟨rfl, lqiConvert_toNat b, ?_, and_0x80_ne_zero_iff.symm, crcOk_iff⟩
  rw [lqiConvert_toNat]
  omega

/-! # The frame builders (40_framer.md R90 to R92) -/

/-- A buffer that a byte string was written to from index 0 on begins with it. -/
theorem read_writeBytes_zero {m : Mem} {bs : List Byte} {i : Nat} (hm : Mem.wf m = true) (hi : i < bs.length) :
    Mem.read (Mem.writeBytes m 0 bs) i = bs[i] := by
  simpa using Mem.read_writeBytes_inside bs (a := 0) hi hm

/-- The byte `n` counts `n` bytes. -/
theorem lenByte_length_readBytes (m : Mem) (a : Nat) (n : Byte) : lenByte (Mem.readBytes m a n.toNat).length = n :=
  lenByte_of_length (Mem.length_readBytes m a n.toNat)

/-- `BuildRaw` leaves in `TXBUF` what R90 says. -/
theorem rawBuilt_writeBytes {n : Byte} {pay old : Mem} (hm : Mem.wf old = true) :
    RawBuilt n pay old (Mem.writeBytes old 0 (rawFrame (Mem.readBytes pay 0 n.toNat))) := by
  refine ⟨?length, fun i hi => ?data, fun i hi => Mem.read_writeBytes_outside _ hm (.inr (by simp; omega))⟩
  case length =>
    rw [read_writeBytes_zero hm (by simp)]
    exact lenByte_length_readBytes pay 0 n
  case data =>
    rw [read_writeBytes_zero hm (by simp; omega)]
    simp [rawFrame, Nat.add_comm 1 i]

/-- `BuildAck` leaves in `TXBUF` what R92 says. -/
theorem ackBuilt_writeBytes {p : Params} {self peer : Byte} {old : Mem} (hm : Mem.wf old = true)
    (hn : p.ackTagLen + 2 ≤ 255) : AckBuilt p self peer old (Mem.writeBytes old 0 (ackFrame p peer self)) := by
  refine ⟨?length, read_writeBytes_zero hm (by simp), read_writeBytes_zero hm (by simp), fun i hi => ?tag,
    fun i hi => Mem.read_writeBytes_outside _ hm (.inr (by simp; omega))⟩
  case length =>
    rw [read_writeBytes_zero hm (by simp), Nat.add_comm 2]
    exact lenByte_toNat hn
  case tag =>
    rw [read_writeBytes_zero hm (by simp [Params.ackTagLen]; omega)]
    simp [ackFrame, addressedFrame, Nat.add_comm 3 i]

/-- Settles O12: the frame is written from index 0 on, and nothing else. -/
theorem buildRawWritesTheFrame : Obligations.BuildRawWritesTheFrame :=
  fun _ _ hm hn => ⟨_, buildRaw_inside hn, rawBuilt_writeBytes hm⟩

/-- Settles O13: as `MAX_LEN` is at most 255, the length byte does not wrap. -/
theorem buildAddressedWritesTheFrame : Obligations.BuildAddressedWritesTheFrame := by
  intro self dest n s hp hm hn
  obtain ⟨-, -, hmax, -⟩ := Params.wf_iff.1 hp
  exact ⟨_, buildAddressed_inside hn, addressedBuilt_writeBytes hm (hn.trans hmax)⟩

/-- Settles O14: R6 lets the tag fit into `MAX_LEN`, which is at most 255. -/
theorem buildAckWritesTheFrame : Obligations.BuildAckWritesTheFrame := by
  intro self peer s hp hm
  obtain ⟨-, htag, hmax, -⟩ := Params.wf_iff.1 hp
  exact ⟨_, buildAck_inside hp, ackBuilt_writeBytes hm (by omega)⟩

/-! # The accepting steps (43_sequencer.md R166 rows 1, 2, 5, 6) -/

/-- The accepting step is the command's body on the accepted state. -/
theorem begin_accepted {w : CmdWord} {body : State → Except Fault State} {s t : State} (ha : s.canAccept = true)
    (hb : body (accept w s) = .ok t) : begin w body s = .next t := by rw [begin_accepts ha, hb, outcome_ok]

/-- Settles O21: in range one byte is written before `Finish`; out of range the command is refused. -/
theorem wrPayStoresOneByte : Obligations.WrPayStoresOneByte := by
  refine fun idx val u s ha hm => ⟨fun hi => ⟨_, ?stored, fun _ => Mem.read_writeFrom val hm⟩, ?refused⟩
  case stored =>
    exact begin_accepted ha ((requireRange_inside (wrPayInRange_iff.2 hi)).trans
      (except_map_eq_ok.2 ⟨_, memWrite_inside (Nat.succ_le_of_lt hi), rfl⟩))
  case refused =>
    obtain ⟨-, -, hrefused, -, -⟩ := refusedCommandsChangeNothing s ha
    exact hrefused idx val u

/-- Settles O22: in range the byte is read before `Finish`; out of range the command is refused. -/
theorem rdRxReadsOneByte : Obligations.RdRxReadsOneByte := by
  refine fun idx u s ha => ⟨fun hi => ?read, ?refused⟩
  case read =>
    exact begin_accepted ha ((requireRange_inside (rdRxInRange_iff.2 hi)).trans
      (except_map_eq_ok.2 ⟨_, memRead_inside (Nat.succ_le_succ hi), rfl⟩))
  case refused =>
    obtain ⟨-, -, -, hrefused, -⟩ := refusedCommandsChangeNothing s ha
    exact hrefused idx u

/-- Settles O25: the two tests pass and `BuildRaw` is defined. -/
theorem sendDataStarts : Obligations.SendDataStarts := by
  intro n u s ha hr hm hn
  refine ⟨_, begin_accepted ha ?_, rawBuilt_writeBytes hm⟩
  exact (requireReady_ready (s := accept _ s) hr).trans ((requireRange_inside (sendDataInRange_iff.2 hn)).trans
    (except_map_eq_ok.2 ⟨_, buildRaw_inside hn, rfl⟩))

/-- Settles O28: the tests pass. -/
theorem receiveCommandsStart : Obligations.ReceiveCommandsStart := by
  refine fun s ha hr => ⟨fun u => ?recvData, fun hl self peer u => ?recvHandle⟩
  case recvData => exact begin_accepted ha (requireReady_ready (s := accept _ s) hr)
  case recvHandle =>
    exact begin_accepted ha
      ((requireLink_present (s := accept _ s) hl).trans (requireReady_ready (s := accept _ s) hr))

end Sys2Proof.Machine

namespace Sys2Proof.Machine

/-! # Runs by named events (43_sequencer.md R165, R169) -/

/-- `s` past an event, with `es` left of the script. -/
def State.past (es : List Event) (s : State) : State := { s with script := es, now := s.now + 1 }

/-- `s` past the event that answers request `q` with `r` and leaves the radio agent as `c`, before the row is taken. -/
def State.answered (q : Request) (r : Response) (c : Chip) (es : List Event) (s : State) : State :=
  { s.past es with chip := c, trace := s.trace ++ [.request q r] }

section
variable {s t : State} {es : List Event}

theorem reaches_of_step {k : Nat} {u : State} (hs : step s = .next u) (hk : reaches k u t) : reaches (k + 1) s t :=
  reaches_succ_iff.2 ⟨u, hs, hk⟩

theorem reaches_one (hs : step s = .next t) : reaches 1 s t := reaches_of_step hs (reaches_zero_iff.2 rfl)

theorem advance_eq_past {e : Event} (he : s.script = e :: es) : s.advance = s.past es := by
  rw [State.advance, he]
  rfl

/-- The host presents a command. -/
theorem step_command {i : Instr} {w : CmdWord} (hf : s.fsm ≠ .ackPoll) (he : s.script = .code (.word w) :: es)
    (hw : encode s.cfg i = .word w) (hi : i.wf s.cfg = true) : step s = exec i (s.past es) := by
  rw [step_other hf, ← advance_eq_past he]
  exact react_code (nextEvent_cons s he) (congrArg Except.ok (decodeWord_of_encode hi hw))

/-- The radio agent answers the outstanding request, and the row of its response is taken. -/
theorem step_answer {r : Reply} {q : Request} {resp : Response} {c : Chip} (hr : s.ports.rst = false)
    (he : s.script = .answer r :: es) (hq : currentRequest s = .ok (some q))
    (hc : s.chip.respond (s.now + 1) q r = some (resp, c)) (ht : onResponse resp (s.answered q resp c es) = .ok t) :
    step s = .next t := by
  have hf : s.fsm ≠ .ackPoll := fun hf => by simp [currentRequest, hf] at hq
  rw [step_other hf, react_answer (nextEvent_cons s he), advance_eq_past he, onAnswer_row (s := s.past es) hr hq hc]
  exact congrArg outcome ht

/-- The `RX_STATUS` byte answers the outstanding `RX_STATUS` (30_encoding.md R66; log 9). -/
theorem step_status {b : Byte} (hr : s.ports.rst = false) (hf : s.fsm = .rdStatus)
    (he : s.script = .code (.status b) :: es) (ht : onStatus b (s.answered .rxStatus (.byte b) s.chip es) = .ok t) :
    step s = .next t := by
  have hne : s.fsm ≠ .ackPoll := by simp [hf]
  have hb : statusByteOf (b.getLsbD 7) (b.extractLsb' 0 7) = b := statusByteOf_fields b
  rw [step_other hne, react_code (nextEvent_cons s he) rfl, advance_eq_past he, decodeStatusByte, exec_rxStatusByte,
    execRxStatusByte_asked (s := s.past es) hr hf, hb]
  exact congrArg outcome ht

/-! ## The responses of a transmit and of a flush (R166 rows 8 to 17, 30, 31) -/

theorem onResponse_txLoad (hf : s.fsm = .txLoad) : onResponse .ok s = .ok { s with fsm := .txGo } := by
  simp [onResponse, hf]

theorem onResponse_txGo (hf : s.fsm = .txGo) (sent : Bool) :
    onResponse (if sent then .txOk else .txUnderflow) s = .ok { s with
      txres := sent, err := if sent then s.err else { s.err with att := .txUnderflow }, fsm := .txRxgo } := by
  cases sent <;> simp [onResponse, hf]

theorem onResponse_txRxgo (hf : s.fsm = .txRxgo) : onResponse .ok s = afterTransmit s := by simp [onResponse, hf]

theorem onResponse_rdFlush (hf : s.fsm = .rdFlush) : onResponse .ok s = .ok { s with fsm := .rdRxgo } := by
  simp [onResponse, hf]

theorem onResponse_rdRxgo (hf : s.fsm = .rdRxgo) : onResponse .ok s = dispatch s := by simp [onResponse, hf]

theorem respond_txGo (now : Nat) (c : Chip) (sent : Bool) : c.respond now .txGo (sentReply sent) =
    some (if sent then .txOk else .txUnderflow, { c with txFifo := [], mode := .unknown }) := by
  cases sent <;> rfl

end

/-! # A transmit (40_framer.md R93) -/

/-- `s` when the `RX_GO` of a transmit has answered, before `afterTransmit` decides how the command goes on. -/
def State.transmitted (sent : Bool) (es : List Event) (s : State) : State :=
  { s with
    txres := sent
    err := if sent then s.err else { s.err with att := .txUnderflow }
    fsm := .txRxgo
    chip := { s.chip with txFifo := [], mode := .receive }
    script := es
    now := s.now + 3
    trace := s.trace ++ transmitLines (Mem.readBytes s.txbuf 0 ((s.byteAt .txbuf 0).toNat + 1)) sent }

section
variable {s t : State} {sent : Bool} {es : List Event}

/-- The burst is the frame that `TXBUF` begins with. -/
theorem currentRequest_txLoad (hf : s.fsm = .txLoad) (hl : (s.byteAt .txbuf 0).toNat ≤ s.cfg.maxLen) :
    currentRequest s =
      .ok (some (.txfifoBurst (Mem.readBytes s.txbuf 0 ((s.byteAt .txbuf 0).toNat + 1)))) := by
  simp only [currentRequest, hf]
  exact except_map_eq_ok.2 ⟨_, memRead_inside (by simpa using hl), rfl⟩

/-- The three requests of a transmit are answered; then the command goes on by `afterTransmit`. -/
theorem reaches_of_transmit (hr : s.ports.rst = false) (hf : s.fsm = .txLoad)
    (hl : (s.byteAt .txbuf 0).toNat ≤ s.cfg.maxLen)
    (hs : s.script = .answer .done :: .answer (sentReply sent) :: .answer .done :: es)
    (ht : afterTransmit (s.transmitted sent es) = .ok t) : reaches 3 s t := by
  refine reaches_of_step (step_answer hr hs (currentRequest_txLoad hf hl) rfl (onResponse_txLoad hf)) ?_
  refine reaches_of_step (step_answer hr rfl rfl (respond_txGo _ _ sent) (onResponse_txGo rfl sent)) ?_
  refine reaches_one (step_answer hr rfl rfl rfl ((onResponse_txRxgo rfl).trans ((congrArg afterTransmit ?_).trans ht)))
  simp [State.transmitted, State.answered, State.past, transmitLines]

end

section
variable {s t : State}

/-! ## Where each command goes on (R166 rows 11 to 17) -/

theorem raiseError_eq_of_code {e : ErrCode} {rx : RxCode} (h : raiseRxCode s.cfg.linkLayer s.cmdw e = rx) :
    raiseError e s = { s with
      status := { busy := false, done := true, ok := false, rxcode := rx }, err := { s.err with code := e }
      fsm := .idle, ctx := .none } := by
  rw [← h]
  rfl

/-- `SEND_DATA` and `SEND_ACK` end with the result of `TX_GO` (40_framer.md R98, 41_link.md R126). -/
theorem afterTransmit_plain (hc : s.ctx = .sendData ∨ s.ctx = .sendAck)
    (hcode : raiseRxCode s.cfg.linkLayer s.cmdw .txUnderflow = .ack) :
    afterTransmit s = .ok { s with
      status := { busy := false, done := true, ok := s.txres, rxcode := .ack }
      err := if s.txres then s.err else { s.err with code := .txUnderflow }
      fsm := .idle
      ctx := .none } := by
  have hends : afterTransmit s = .ok (if s.txres then finish true .ack s else raiseError .txUnderflow s) := by
    obtain hc | hc := hc <;> simp only [afterTransmit, hc]
  rw [hends, raiseError_eq_of_code hcode]
  split <;> next hx => simp [finish, hx]

theorem afterTransmit_autoAck (hc : s.ctx = .autoAck) : afterTransmit s = .ok (finish true .data s) := by
  simp [afterTransmit, hc]

theorem isBroadcast_iff {p : Params} {a : Byte} : isBroadcast p a = true ↔ a = p.broadcastAddr := beq_iff_eq

theorem afterTransmit_broadcast (hc : s.ctx = .sendPacket) (hx : s.txres = true) (hb : s.xPeer = s.cfg.broadcastAddr) :
    afterTransmit s = .ok (finish true .ack s) := by
  simp [afterTransmit, hc, hx, isBroadcast_iff.2 hb]

theorem afterTransmit_wait (hc : s.ctx = .sendPacket) (hx : s.txres = true) (hb : s.xPeer ≠ s.cfg.broadcastAddr)
    (hT : 0 < s.cfg.ackTimeoutSteps) :
    afterTransmit s = .ok { s with waitCnt := 0, rdres := .none, fsm := .ackPoll } := by
  simp [afterTransmit, hc, hx, isBroadcast_iff, hb, hT]

theorem afterTransmit_noWait (hc : s.ctx = .sendPacket) (hx : s.txres = true) (hb : s.xPeer ≠ s.cfg.broadcastAddr)
    (hT : s.cfg.ackTimeoutSteps = 0) : afterTransmit s = failAttempt .ackTimeout { s with waitCnt := 0 } := by
  simp [afterTransmit, hc, hx, isBroadcast_iff, hb, hT]

theorem afterTransmit_underflow (hc : s.ctx = .sendPacket) (hx : s.txres = false) : afterTransmit s = retry s := by
  simp [afterTransmit, hc, hx]

/-- What the end of a transmit may write. -/
theorem TransmitRow.frame (h : TransmitRow s t) : t = { s with
    txbuf := t.txbuf, fsm := t.fsm, ctx := t.ctx, rdres := t.rdres, status := t.status, err := t.err,
    retryCnt := t.retryCnt, waitCnt := t.waitCnt } := by
  cases h with
  | noWait _ _ _ _ h | failed _ _ h => rw [retry_frame h]
  | _ => rfl

/-- A transmit for another command than `SEND_PACKET` ends the command. -/
theorem TransmitRow.ends_of_ne_sendPacket (h : TransmitRow s t) (hc : s.ctx ≠ .sendPacket) :
    t.txbuf = s.txbuf ∧ t.rdres = s.rdres ∧ t.retryCnt = s.retryCnt ∧ t.waitCnt = s.waitCnt ∧
      t.ctx = .none := by
  cases h with
  | sent | underflow | autoAck => exact ⟨rfl, rfl, rfl, rfl, rfl⟩
  | broadcast h | wait h | noWait h | failed h => exact absurd h hc

theorem State.Running.transmitted {sent : Bool} {es : List Event} (h : s.Running) :
    (s.transmitted sent es).Running := by
  cases sent <;> exact h

end

/-- Settles O33: the three answers lead to `afterTransmit`, which goes by `CTX`, `TXRES` and the destination. -/
theorem transmitEndsByItsContext : Obligations.TransmitEndsByItsContext := by
  intro s sent tail hi hr hf hs
  obtain ⟨hrun, hp⟩ := hi.runningAt hf
  obtain ⟨t, ht⟩ := afterTransmit_ok (s := s.transmitted sent tail) hp hi.dataLen
  have hrow := afterTransmit_row ht
  refine ⟨t, reaches_of_transmit hr hf (hi.txLen hf) hs ht, ?trace, ?txres, ?mode, ?fifo, ?script, ?frame,
    hrow.ends_of_ne_sendPacket, fun hc => ?plain, fun hc => ?autoAck, ?broadcast, ?wait, ?noWait, ?underflow⟩
  case trace | txres | mode | fifo | script | frame =>
    rw [hrow.frame]
    rfl
  case plain =>
    have hcode : raiseRxCode s.cfg.linkLayer s.cmdw .txUnderflow = .ack := by
      obtain hc | hc := hc <;> exact (hrun.raiseRxCode_eq (by rw [hc]; rfl) (by simp)).trans (by rw [hc]; rfl)
    cases (afterTransmit_plain (s := s.transmitted sent tail) hc hcode).symm.trans ht
    cases sent <;> exact ⟨rfl, rfl, rfl⟩
  case autoAck =>
    cases (afterTransmit_autoAck (s := s.transmitted sent tail) hc).symm.trans ht
    exact ⟨rfl, rfl, rfl⟩
  case broadcast =>
    rintro hc rfl hb
    cases (afterTransmit_broadcast (s := s.transmitted true tail) hc rfl hb).symm.trans ht
    exact ⟨rfl, rfl, rfl, rfl, rfl, rfl, rfl, rfl⟩
  case wait =>
    rintro hc rfl hb hT
    cases (afterTransmit_wait (s := s.transmitted true tail) hc rfl hb hT).symm.trans ht
    exact ⟨rfl, hc, rfl, rfl, rfl, rfl, rfl, rfl⟩
  case noWait =>
    rintro hc rfl hb hT
    rw [afterTransmit_noWait (s := s.transmitted true tail) hc rfl hb hT] at ht
    have hfailed := failAttempt_attemptFailed (hrun.transmitted.waiting (Nat.zero_le _)) hc ht
    exact hfailed
  case underflow =>
    rintro hc rfl
    rw [afterTransmit_underflow (s := s.transmitted false tail) hc rfl] at ht
    have hfailed := failAttempt_attemptFailed (e := .txUnderflow) hrun.transmitted hc ht
    exact hfailed

/-! # `SEND_DATA` as a whole (40_framer.md R98) -/

/-- A block that can accept a command stands in `S_IDLE`. -/
theorem State.Inv.idle_of_canAccept {s : State} (hi : s.Inv) (ha : s.canAccept = true) : s.fsm = .idle := by
  by_contra hf
  simp [State.canAccept, hi.busy.2 hf] at ha

/-- The burst of a raw frame is `n` and the `n` bytes of `PAY`. -/
theorem RawBuilt.readBytes {n : Byte} {pay old new : Mem} (h : RawBuilt n pay old new) :
    Mem.readBytes new 0 ((Mem.read new 0).toNat + 1) = n :: Mem.readBytes pay 0 n.toNat := by
  obtain ⟨hlen, hdata, -⟩ := h
  rw [Mem.readBytes, hlen]
  refine congrArg _ (List.ext_getElem (by simp) fun i hi _ => ?_)
  simpa using hdata i (by simpa using hi)

/-- Settles O30: the accepting step, and a transmit that `SEND_DATA` ends. -/
theorem sendDataSendsOneFrame : Obligations.SendDataSendsOneFrame := by
  intro n u s sent tail hi ha hr hn hs
  have hf : s.fsm ≠ .ackPoll := by simp [hi.idle_of_canAccept ha]
  obtain ⟨m, hstart, (hbuilt : RawBuilt n s.pay s.txbuf m)⟩ :=
    sendDataStarts n u (s.past _) ha hr hi.txForm.1 hn
  refine ⟨m, { s.chip with txFifo := [], mode := .receive }, hbuilt, rfl, rfl,
    reaches_of_step ((step_command hf hs rfl rfl).trans hstart)
      (reaches_of_transmit (canAccept_iff.1 ha).1 rfl ?len rfl ?ends)⟩
  case len =>
    obtain ⟨hlen, -⟩ := hbuilt
    rwa [byteAt_tx, hlen]
  case ends =>
    have hcode : raiseRxCode s.cfg.linkLayer (wordSendData n u) .txUnderflow = .ack :=
      raiseRxCode_other _ (.inr (by simp))
    refine (afterTransmit_plain (.inl rfl) hcode).trans ?_
    rw [← hbuilt.readBytes]
    cases sent <;> rfl

end Sys2Proof.Machine

namespace Sys2Proof.Machine

/-! # Reading a record (40_framer.md R94)

## The record in `RXBUF` -/

theorem Mem.writeBytes_append : ∀ (xs ys : List Byte) (m : Mem) (a : Nat),
    Mem.writeBytes m a (xs ++ ys) = Mem.writeBytes (Mem.writeBytes m a xs) (a + xs.length) ys
  | [], _, _, _ => rfl
  | x :: xs, ys, m, a => by
    rw [List.length_cons, Nat.add_comm xs.length, ← Nat.add_assoc]
    exact Mem.writeBytes_append xs ys (Mem.write m a x) (a + 1)

@[simp] theorem length_recordBytes (payload : List Byte) (t0 t1 : Byte) :
    (recordBytes payload t0 t1).length = payload.length + 3 := by simp [recordBytes]

/-- The length byte, the payload and the trailer are stored one after the other. -/
theorem writeBytes_recordBytes (m : Mem) (payload : List Byte) (t0 t1 : Byte) :
    Mem.writeBytes m 0 (recordBytes payload t0 t1) =
      Mem.writeBytes (Mem.writeBytes (Mem.writeBytes m 0 [lenByte payload.length]) 1 payload)
        (payload.length + 1) [t0, t1] := by
  rw [recordBytes, Mem.writeBytes_append, length_rawFrame, Nat.zero_add]
  rfl

section
variable {old : Mem} {payload : List Byte} {t0 t1 : Byte} (hm : Mem.wf old = true)
include hm

theorem read_recordBytes_length :
    Mem.read (Mem.writeBytes old 0 (recordBytes payload t0 t1)) 0 = lenByte payload.length :=
  read_writeBytes_head _ _ hm

theorem read_recordBytes_payload (i : Nat) (hi : i < payload.length) :
    Mem.read (Mem.writeBytes old 0 (recordBytes payload t0 t1)) (1 + i) = payload[i] := by
  rw [read_writeBytes_zero hm (by simp; omega)]
  simp [recordBytes, rawFrame, Nat.add_comm 1 i, List.getElem_append_left hi]

theorem read_recordBytes_rssi :
    Mem.read (Mem.writeBytes old 0 (recordBytes payload t0 t1)) (payload.length + 1) = t0 := by
  rw [read_writeBytes_zero hm (by simp)]
  simp [recordBytes, rawFrame]

theorem read_recordBytes_lqi :
    Mem.read (Mem.writeBytes old 0 (recordBytes payload t0 t1)) (payload.length + 2) = t1 := by
  rw [read_writeBytes_zero hm (by simp)]
  simp [recordBytes, rawFrame]

theorem recordRead_writeBytes (hl : payload.length ≤ 255) :
    RecordRead payload t0 t1 old (Mem.writeBytes old 0 (recordBytes payload t0 t1)) := by
  refine ⟨?_, read_recordBytes_payload hm, read_recordBytes_rssi hm, read_recordBytes_lqi hm,
    fun i hi => Mem.read_writeBytes_outside _ hm (.inr (by simp; omega))⟩
  rw [read_recordBytes_length hm, lenByte_toNat hl]

end

/-! ## The pops (R166 rows 25 to 29) -/

/-- A pop of what the RX FIFO begins with (20_memory.md R44). -/
theorem respond_pop {now : Nat} {c : Chip} {bs rest : List Byte} (h : c.rxFifo = bs ++ rest) :
    c.respond now (.rxfifoPop bs.length) .done = some (.bytes bs, { c with rxFifo := rest }) := by
  rw [respond_rxfifoPop_inside (by simp [h])]
  simp [h]

section
variable {s t : State} {es : List Event}

theorem onResponse_rdLen {b : Byte} (hf : s.fsm = .rdLen) : onResponse (.bytes [b]) s = onLength b s := by
  simp [onResponse, hf]

theorem onResponse_rdBody {bs : List Byte} (hf : s.fsm = .rdBody) (hl : bs.length ≤ s.cfg.maxLen) :
    onResponse (.bytes bs) s = .ok { s with rxbuf := Mem.writeBytes s.rxbuf 1 bs, fsm := .rdTrailer } := by
  simp only [onResponse, hf, onBody]
  exact memWrite_inside (by simp; omega)

theorem onResponse_rdTrailer {rssi lqi : Byte} (hf : s.fsm = .rdTrailer)
    (hl : (s.byteAt .rxbuf 0).toNat ≤ s.cfg.maxLen) :
    onResponse (.bytes [rssi, lqi]) s = dispatch { s with
      rxbuf := Mem.writeBytes s.rxbuf ((s.byteAt .rxbuf 0).toNat + 1) [rssi, lqi], rdres := .ok } := by
  simp only [onResponse, hf, onTrailer]
  rw [memWrite_inside (by simp; omega)]
  rfl

theorem onLength_oversize {b : Byte} (hl : s.cfg.maxLen < b.toNat) : onLength b s =
    .ok { s with rxbuf := Mem.writeBytes s.rxbuf 0 [b], rdres := .oversize, fsm := .rdFlush } := by
  rw [onLength, if_pos hl]
  exact memWrite_inside (by simp)

theorem onLength_zero :
    onLength 0x00#8 s = .ok { s with rxbuf := Mem.writeBytes s.rxbuf 0 [0x00#8], fsm := .rdTrailer } := by
  rw [onLength, if_neg (by simp), if_pos rfl]
  exact memWrite_inside (by simp)

theorem onLength_payload {b : Byte} (hl : b.toNat ≤ s.cfg.maxLen) (hb : b ≠ 0x00#8) :
    onLength b s = .ok { s with rxbuf := Mem.writeBytes s.rxbuf 0 [b], fsm := .rdBody } := by
  rw [onLength, if_neg hl.not_gt, if_neg hb]
  exact memWrite_inside (by simp)

/-- The trailer is popped and stored behind the payload of `k` bytes (row 29). -/
theorem step_trailer {k : Nat} {t0 t1 : Byte} {rest : List Byte} (hr : s.ports.rst = false) (hf : s.fsm = .rdTrailer)
    (hk : (s.byteAt .rxbuf 0).toNat = k) (hl : k ≤ s.cfg.maxLen) (hfifo : s.chip.rxFifo = t0 :: t1 :: rest)
    (hs : s.script = .answer .done :: es)
    (ht : dispatch { s.answered (.rxfifoPop 2) (.bytes [t0, t1]) { s.chip with rxFifo := rest } es with
      rxbuf := Mem.writeBytes s.rxbuf (k + 1) [t0, t1], rdres := .ok } = .ok t) : step s = .next t := by
  subst hk
  have hq : currentRequest s = .ok (some (.rxfifoPop 2)) := by simp [currentRequest, hf]
  refine step_answer hr hs hq (respond_pop (bs := [t0, t1]) hfifo) ?_
  exact (onResponse_rdTrailer (s := s.answered _ _ _ es) hf hl).trans ht

theorem currentRequest_rdBody {k : Nat} (hf : s.fsm = .rdBody) (hk : (s.byteAt .rxbuf 0).toNat = k) :
    currentRequest s = .ok (some (.rxfifoPop k)) := by simp [currentRequest, hf, hk]

end

/-! ## The read as a whole -/

/-- `s` when `RX_STATUS` has reported a record with `b` and its length byte has been popped, before it is tested. -/
def State.lengthPopped (b len : Byte) (rest : List Byte) (es : List Event) (s : State) : State :=
  { s with
    fsm := .rdLen
    chip := { s.chip with rxFifo := rest }
    script := es
    now := s.now + 2
    trace := s.trace ++ [.request .rxStatus (.byte b), .request (.rxfifoPop 1) (.bytes [len])] }

/-- `s` when the trailer of a whole record has been read, before `DISPATCH` decides how the command goes on. -/
def State.recordStored (b : Byte) (payload : List Byte) (t0 t1 : Byte) (rest : List Byte) (es : List Event)
    (s : State) : State :=
  { s with
    rxbuf := Mem.writeBytes s.rxbuf 0 (recordBytes payload t0 t1)
    rdres := .ok
    fsm := .rdTrailer
    chip := { s.chip with rxFifo := rest }
    script := es
    now := s.now + readAnswers payload
    trace := s.trace ++ readLines b payload t0 t1 }

section
variable {s t : State} {b t0 t1 : Byte} {payload rest : List Byte} {es : List Event}

theorem readAnswers_nil : readAnswers [] = 3 := rfl

theorem readAnswers_cons (p : Byte) (ps : List Byte) : readAnswers (p :: ps) = 4 := rfl

/-- `RX_STATUS` reports a record and its length byte is popped; then the read goes on by that byte. -/
theorem reaches_of_length {k : Nat} {u : State} {len : Byte} (hr : s.ports.rst = false) (hf : s.fsm = .rdStatus)
    (ho : statusOvf b = false) (hn : statusCnt b ≠ 0#7) (hfifo : s.chip.rxFifo = len :: rest)
    (hs : s.script = .code (.status b) :: .answer .done :: es)
    (hu : onLength len (s.lengthPopped b len rest es) = .ok u) (hk : reaches k u t) : reaches (k + 2) s t := by
  refine reaches_of_step (step_status hr hf hs (onStatus_available ho hn)) (reaches_of_step ?_ hk)
  refine step_answer hr rfl rfl (respond_pop (bs := [len]) hfifo) ((onResponse_rdLen rfl).trans ?_)
  exact (congrArg (onLength len) (by simp [State.lengthPopped, State.answered, State.past])).trans hu

/-- `RX_STATUS` reports a record, its length byte, its payload (if it has one) and its trailer are popped; then the
command goes on by `DISPATCH`. -/
theorem reaches_of_read (hi : s.Inv) (hr : s.ports.rst = false) (hf : s.fsm = .rdStatus)
    (hl : payload.length ≤ s.cfg.maxLen) (hfifo : s.chip.rxFifo = fifoWith payload t0 t1 rest)
    (ho : statusOvf b = false) (hn : statusCnt b ≠ 0#7)
    (hs : s.script = .code (.status b) :: (List.replicate (readAnswers payload - 1) (.answer .done) ++ es))
    (ht : dispatch (s.recordStored b payload t0 t1 rest es) = .ok t) : reaches (readAnswers payload) s t := by
  obtain ⟨hm, -⟩ := hi.rxForm
  obtain ⟨-, -, hmax, -⟩ := Params.wf_iff.1 hi.params
  have hlen : (lenByte payload.length).toNat = payload.length := lenByte_toNat (hl.trans hmax)
  have hhead : Mem.read (Mem.writeBytes s.rxbuf 0 [lenByte payload.length]) 0 = lenByte payload.length :=
    read_writeBytes_head _ [] hm
  rw [State.recordStored, writeBytes_recordBytes] at ht
  cases payload with
  | nil =>
    rw [readAnswers_nil] at hs ⊢
    refine reaches_of_length hr hf ho hn hfifo hs onLength_zero ?_
    refine reaches_one (step_trailer (k := 0) hr rfl (congrArg BitVec.toNat hhead) (Nat.zero_le _) rfl rfl
      ((congrArg dispatch ?_).trans ht))
    simp [State.lengthPopped, State.answered, State.past, readLines, readAnswers, Mem.writeBytes, lenByte]
  | cons p ps =>
    have hne : lenByte (p :: ps).length ≠ 0x00#8 := fun h => by
      rw [h] at hlen
      cases hlen
    have hstored : (Mem.read (Mem.writeBytes (Mem.writeBytes s.rxbuf 0 [lenByte (p :: ps).length]) 1 (p :: ps))
        0).toNat = (p :: ps).length := by
      rw [Mem.read_writeBytes_outside _ (Mem.wf_writeBytes _ 0 hm) (.inl Nat.zero_lt_one), hhead, hlen]
    rw [readAnswers_cons] at hs ⊢
    refine reaches_of_length hr hf ho hn hfifo hs (onLength_payload (hlen.trans_le hl) hne) ?_
    refine reaches_of_step (step_answer hr rfl (currentRequest_rdBody rfl ((congrArg BitVec.toNat hhead).trans hlen))
      (respond_pop (bs := p :: ps) rfl) (onResponse_rdBody rfl hl)) ?_
    refine reaches_one (step_trailer hr rfl hstored hl rfl rfl ((congrArg dispatch ?_).trans ht))
    simp [State.lengthPopped, State.answered, State.past, readLines, readAnswers]

/-! ## `DISPATCH` for a whole record -/

theorem dispatch_recvData_ok (hc : s.ctx = .recvData) (hr : s.rdres = .ok)
    (hl : (s.byteAt .rxbuf 0).toNat ≤ s.cfg.maxLen) :
    dispatch s = .ok (finish true .ack { s with rLen := s.byteAt .rxbuf 0 }.trailerTaken) := by
  have hd : dispatch s = (takeTrailer { s with rLen := s.byteAt .rxbuf 0 }).map (finish true .ack) := by
    simp only [dispatch, hc, dispatchRecvData, hr]
  exact hd.trans (except_map_eq_ok.2 ⟨_, takeTrailer_ok hl, rfl⟩)

/-- `DISPATCH` leaves the record in `RXBUF` and the radio agent as they are. -/
theorem ReadRow.keepsRecord (h : ReadRow s t) : t.rxbuf = s.rxbuf ∧ t.chip = s.chip ∧ t.script = s.script := by
  cases h with
  | retried _ _ h | waitFailed _ _ h =>
    rw [retry_frame h]
    exact ⟨rfl, rfl, rfl⟩
  | _ => exact ⟨rfl, rfl, rfl⟩

/-- Only an awaited record that is no ACK changes `RDRES` after a whole read (41_link.md R124). -/
theorem ReadRow.rdres_of_ok (h : ReadRow s t) (hr : s.rdres = .ok) :
    t.rdres = .ok ∨ (s.ctx = .sendPacket ∧ t.rdres = .badAck) := by
  cases h with
  | badAck hc => exact .inr ⟨hc, rfl⟩
  | retried _ hb => simp [hr] at hb
  | receiveFailed _ he | waitFailed _ he => simp [hr, RdRes.cause] at he
  | _ => exact .inl hr

theorem State.Running.recordStored (h : s.Running) (hl : payload.length ≤ s.cfg.maxLen) :
    (s.recordStored b payload t0 t1 rest es).Running :=
  h.rxWritten (by simp; omega)

end

/-- Settles O35: the read stores the record, and `DISPATCH` takes the results from it. -/
theorem recvDataDeliversTheRecord : Obligations.RecvDataDeliversTheRecord := by
  intro s payload rest t0 t1 b tail hi hr hf hc hl hfifo ho hn hs
  obtain ⟨hm, -⟩ := hi.rxForm
  obtain ⟨-, -, hmax, -⟩ := Params.wf_iff.1 hi.params
  have hlen : (lenByte payload.length).toNat = payload.length := lenByte_toNat (hl.trans hmax)
  have hhead := read_recordBytes_length (payload := payload) (t0 := t0) (t1 := t1) hm
  refine ⟨_, recordRead_writeBytes hm (hl.trans hmax), reaches_of_read hi hr hf hl hfifo ho hn hs ?_⟩
  refine Eq.trans (dispatch_recvData_ok hc rfl ?fits) (congrArg _ ?results)
  case fits =>
    rw [byteAt_rx]
    exact (congrArg BitVec.toNat hhead).trans_le (hlen.trans_le hl)
  case results =>
    simp [finish, State.trailerTaken, State.recordStored, byteAt_rx, hhead, hlen, read_recordBytes_rssi hm,
      read_recordBytes_lqi hm]

/-! # A read that gives no record (40_framer.md R94, 60_exceptions.md R185, R186, R190) -/

/-- `s` when the RX FIFO has been flushed and receive mode resumed, before `DISPATCH`. -/
def State.flushed (es : List Event) (s : State) : State :=
  { s with
    fsm := .rdRxgo
    chip := { s.chip with rxFifo := [], rxOvf := false, mode := .receive }
    script := es
    now := s.now + 2
    trace := s.trace ++ [.request .rxFlush .ok, .request .rxGo .ok] }

section
variable {s t : State} {es : List Event}

theorem reaches_of_flush (hr : s.ports.rst = false) (hf : s.fsm = .rdFlush)
    (hs : s.script = .answer .done :: .answer .done :: es) (ht : dispatch (s.flushed es) = .ok t) :
    reaches 2 s t := by
  have hq : currentRequest s = .ok (some .rxFlush) := by simp [currentRequest, hf]
  refine reaches_of_step (step_answer hr hs hq rfl (onResponse_rdFlush hf)) ?_
  refine reaches_one (step_answer hr rfl rfl rfl ((onResponse_rdRxgo rfl).trans ((congrArg dispatch ?_).trans ht)))
  simp [State.flushed, State.answered, State.past]

/-- A receive command ends with the error of its read (40_framer.md R99, 41_link.md R127). -/
theorem dispatch_receiveFailed {e : ErrCode} {rx : RxCode} (hc : s.ctx = .recvData ∨ s.ctx = .recvHandle)
    (he : s.rdres.cause = some e) (hrx : raiseRxCode s.cfg.linkLayer s.cmdw e = rx) :
    dispatch s = .ok { s with
      status := { busy := false, done := true, ok := false, rxcode := rx }, err := { s.err with code := e }
      fsm := .idle, ctx := .none } := by
  rw [← raiseError_eq_of_code hrx]
  cases hr : s.rdres
  case empty | overflow | oversize =>
    rw [hr] at he
    cases he
    obtain hc | hc := hc <;> simp [dispatch, dispatchRecvData, dispatchRecvHandle, hc, hr]
  case none | ok | badAck => simp [hr, RdRes.cause] at he

end

/-- Settles O36: `RX_STATUS` or the length byte ends the read, a flush follows where there was something to discard, and
`DISPATCH` raises. -/
theorem receiveOfBadFifoFails : Obligations.ReceiveOfBadFifoFails := by
  intro s b tail hi hr hf hc ended flushed
  have hcode (e : ErrCode) (he : e ≠ .busTimeout) : raiseRxCode s.cfg.linkLayer s.cmdw e = s.ctx.failCode := by
    obtain hc | hc := hc <;> exact (hi.runningAt hf).1.raiseRxCode_eq (by rw [hc]; rfl) he
  obtain ⟨hm, -⟩ := hi.rxForm
  refine ⟨fun ho hn hs => ?empty, fun ho hs => ?overflow, fun len more ho hn hfifo hl hs => ?oversized⟩
  case empty =>
    refine reaches_one (step_status hr hf hs (Eq.trans (onStatus_receiveEmpty ho hn hc) (congrArg _ ?_)))
    exact raiseError_eq_of_code (hcode .empty (by simp))
  case overflow =>
    refine reaches_of_step (step_status hr hf hs (onStatus_overflow ho)) (reaches_of_flush hr rfl rfl ?_)
    refine Eq.trans (dispatch_receiveFailed hc rfl (hcode .rxOverflow (by simp))) (congrArg _ ?_)
    simp [ended, flushed, State.flushed, State.answered, State.past]
  case oversized =>
    refine ⟨Mem.write s.rxbuf 0 len, fun i => Mem.read_writeFrom len hm, ?_⟩
    refine reaches_of_length hr hf ho hn hfifo hs (onLength_oversize hl) (reaches_of_flush hr rfl rfl ?_)
    refine Eq.trans (dispatch_receiveFailed hc rfl (hcode .oversized (by simp))) (congrArg _ ?_)
    simp [ended, flushed, State.flushed, State.lengthPopped, Mem.writeBytes]

/-! # A built frame is read back (40_framer.md R102) -/

/-- The number of answers of a read whose length byte is `n`. -/
theorem readAnswers_readBytes (m : Mem) (a : Nat) (n : Byte) :
    readAnswers (Mem.readBytes m a n.toNat) = if n = 0x00#8 then 3 else 4 := by
  have hempty : Mem.readBytes m a n.toNat = [] ↔ n = 0x00#8 := by
    rw [← List.length_eq_zero_iff, Mem.length_readBytes, ← BitVec.toNat_inj]
    rfl
  simp only [readAnswers, hempty]

/-- A buffer that begins with a frame, and the trailer behind it, are a record (30_encoding.md R64). -/
theorem fifoWith_readBytes (m : Mem) (t0 t1 : Byte) (rest : List Byte) :
    fifoWith (Mem.readBytes m 1 (Mem.read m 0).toNat) t0 t1 rest =
      Mem.readBytes m 0 ((Mem.read m 0).toNat + 1) ++ t0 :: t1 :: rest := by
  rw [fifoWith, lenByte_length_readBytes]
  rfl

/-- A record whose payload was a frame in buffer `m` is in `RXBUF` what the frame is in `m`. -/
theorem RecordRead.read_eq {m old new : Mem} {t0 t1 : Byte}
    (h : RecordRead (Mem.readBytes m 1 (Mem.read m 0).toNat) t0 t1 old new) (i : Nat)
    (hi : i ≤ (Mem.read m 0).toNat) : Mem.read new i = Mem.read m i := by
  obtain ⟨hlen, hdata, -⟩ := h
  cases i with
  | zero => exact BitVec.eq_of_toNat_eq (hlen.trans (Mem.length_readBytes ..))
  | succ j =>
    have := hdata j (by simpa using hi)
    rwa [Mem.getElem_readBytes, Nat.add_comm] at this

/-- A frame that stands in a buffer `m`, followed by a trailer in the RX FIFO, is read as the record that it then is. -/
theorem reaches_of_frame {s t : State} {m : Mem} {b t0 t1 : Byte} {rest : List Byte} {es : List Event} (hi : s.Inv)
    (hr : s.ports.rst = false) (hf : s.fsm = .rdStatus) (hl : (Mem.read m 0).toNat ≤ s.cfg.maxLen)
    (hfifo : s.chip.rxFifo = Mem.readBytes m 0 ((Mem.read m 0).toNat + 1) ++ t0 :: t1 :: rest)
    (ho : statusOvf b = false) (hn : statusCnt b ≠ 0#7)
    (hs : s.script = .code (.status b) ::
      (List.replicate (if Mem.read m 0 = 0x00#8 then 2 else 3) (.answer .done) ++ es))
    (ht : dispatch (s.recordStored b (Mem.readBytes m 1 (Mem.read m 0).toNat) t0 t1 rest es) = .ok t) :
    reaches (if Mem.read m 0 = 0x00#8 then 3 else 4) s t := by
  rw [← readAnswers_readBytes m 1]
  refine reaches_of_read hi hr hf (by simpa using hl) (hfifo.trans (fifoWith_readBytes ..).symm) ho hn ?_ ht
  rw [hs, readAnswers_readBytes]
  split <;> rfl

theorem buildRaw_built {n : Byte} {s s' : State} (hm : Mem.wf s.txbuf = true) (h : buildRaw n s = .ok s') :
    RawBuilt n s.pay s.txbuf s'.txbuf := by
  obtain ⟨-, rfl⟩ := buildRaw_eq_ok h
  exact rawBuilt_writeBytes hm

theorem buildAddressed_built {self dest n : Byte} {s s' : State} (hp : s.cfg.wf = true) (hm : Mem.wf s.txbuf = true)
    (h : buildAddressed self dest n s = .ok s') : AddressedBuilt self dest n s.pay s.txbuf s'.txbuf := by
  obtain ⟨-, -, hmax, -⟩ := Params.wf_iff.1 hp
  obtain ⟨hn, rfl⟩ := buildAddressed_eq_ok h
  exact addressedBuilt_writeBytes hm (hn.trans hmax)

/-- Settles O34: the buffer's frame and the trailer are a record, which the read stores and `DISPATCH` keeps. -/
theorem builtFrameIsReadBack : Obligations.BuiltFrameIsReadBack := by
  intro s s' r self dest n t0 t1 b rest tail addressed hp hm hb hi hr hf hl hfifo ho hn hs
  rw [byteAt_tx] at hl hfifo hs ⊢
  obtain ⟨-, -, hmax, -⟩ := Params.wf_iff.1 hi.params
  obtain ⟨hrun, hpair⟩ := hi.runningAt hf
  have hpl : (Mem.readBytes s'.txbuf 1 (Mem.read s'.txbuf 0).toNat).length ≤ r.cfg.maxLen := by simpa using hl
  have hrecord := recordRead_writeBytes (t0 := t0) (t1 := t1) hi.rxForm.1 (hpl.trans hmax)
  have hlen := hrecord.read_eq 0 (Nat.zero_le _)
  have hfits : (Mem.read (r.recordStored b _ t0 t1 rest tail).rxbuf 0).toNat ≤ r.cfg.maxLen :=
    (congrArg BitVec.toNat hlen).trans_le hl
  obtain ⟨t, ht⟩ := dispatch_ok (s := r.recordStored b _ t0 t1 rest tail) (hrun.recordStored hpl) hpair hfits
  obtain ⟨hrx, hchip, hscript⟩ := (dispatch_row ht).keepsRecord
  have hread (i : Nat) (hi : i ≤ (Mem.read s'.txbuf 0).toNat) : Mem.read t.rxbuf i = Mem.read s'.txbuf i := by
    rw [hrx]
    exact hrecord.read_eq i hi
  refine ⟨t, reaches_of_frame hi hr hf hl hfifo ho hn hs ht, hscript, by rw [hchip]; rfl,
    (dispatch_row ht).rdres_of_ok rfl, ?raw, ?addressed, fun hc => ?recvData⟩
  case raw =>
    rintro rfl
    obtain ⟨hhead, hdata, -⟩ := buildRaw_built hm hb
    refine ⟨(hread 0 (Nat.zero_le _)).trans hhead, fun i hi => (hread (1 + i) ?_).trans (hdata i hi)⟩
    rw [hhead]
    omega
  case addressed =>
    rintro rfl
    obtain ⟨hhead, hdest, hself, hdata, -⟩ := buildAddressed_built hp hm hb
    refine ⟨(congrArg BitVec.toNat (hread 0 (Nat.zero_le _))).trans hhead, (hread 1 (by omega)).trans hdest,
      (hread 2 (by omega)).trans hself, fun i hi => (hread (3 + i) (by omega)).trans (hdata i hi)⟩
  case recvData =>
    cases (dispatch_recvData_ok (s := r.recordStored b _ t0 t1 rest tail) hc rfl hfits).symm.trans ht
    refine ⟨rfl, hlen, ?_⟩
    rintro rfl
    obtain ⟨hcount, -, -, hlqi, -⟩ := hrecord
    rw [← hcount] at hlqi
    exact congrArg crcOk hlqi

end Sys2Proof.Machine

namespace Sys2Proof.Machine

/-! # The transmits of a `SEND_PACKET` (41_link.md R129) -/

theorem txGoCount_append (l l' : List Interaction) : txGoCount (l ++ l') = txGoCount l + txGoCount l' :=
  List.countP_append

/-- The `TX_GO` requests of the attempt in progress, by what the block does next. -/
def Fsm.transmits : Fsm → Nat
  | .txLoad | .txGo | .backoff => 0
  | _ => 1

/-- In a `SEND_PACKET` each failed attempt has made one `TX_GO`, and the attempt in progress `n`. -/
def State.Counts (n : Nat) (s : State) : Prop := s.ctx = .sendPacket → txGoCount s.trace = s.retryCnt.toNat + n

theorem transmitsCounted_iff {s : State} : s.TransmitsCounted ↔ s.Counts s.fsm.transmits := Iff.rfl

/-- What a step keeps and, where it ends a `SEND_PACKET`, the number of transmits that it leaves (R129 b, c). -/
def State.CountKept (s t : State) : Prop :=
  t.TransmitsCounted ∧
  (s.ctx = .sendPacket → t.status.busy = false →
    (t.err.code = .retries → txGoCount t.trace = max s.xMaxRetry.toNat 1 ∧ t.retryCnt.toNat = txGoCount t.trace) ∧
    (t.status.ok = true → txGoCount t.trace = t.retryCnt.toNat + 1))

section
variable {s t : State}

/-- A `SEND_PACKET` is a command in progress. -/
theorem State.Inv.running_of_sendPacket (hi : s.Inv) (hc : s.ctx = .sendPacket) : s.Running :=
  hi.running fun hf => by simpa [hf, hc, pairReached] using hi.pair

theorem State.Running.busy (h : s.Running) : s.status.busy = true := by
  obtain ⟨-, -, hb, -⟩ := h
  exact hb

/-- A command that is still in progress has only to keep the count. -/
theorem countKept_of_busy (hb : t.status.busy = true) (ht : t.Counts t.fsm.transmits) : s.CountKept t :=
  ⟨ht, fun _ hf => by simp [hb] at hf⟩

/-- No `SEND_PACKET` is in progress before or after. -/
theorem countKept_of_other (hs : s.ctx ≠ .sendPacket) (ht : t.ctx ≠ .sendPacket) : s.CountKept t :=
  ⟨fun hc => absurd hc ht, fun hc => absurd hc hs⟩

/-- A command that ends with another error than `RetriesExhausted`: R129 says nothing of it. -/
theorem countKept_of_raise {e : ErrCode} (he : e ≠ .retries) : s.CountKept (raiseError e t) :=
  ⟨nofun, fun _ _ => ⟨fun h => absurd h he, nofun⟩⟩

/-- A success after the attempt in progress has transmitted. -/
theorem countKept_of_finish {rx : RxCode} (hr : s.Running) (hn : s.Counts 1) : s.CountKept (finish true rx s) := by
  obtain ⟨-, -, -, ⟨-, -, -, hcode⟩, -⟩ := hr
  exact ⟨nofun, fun hc _ => ⟨fun h => absurd (hcode.symm.trans h) nofun, fun _ => hn hc⟩⟩

/-- `RETRY` counts the attempt that has transmitted and failed; the last one is attempt `max(X_MAXRETRY, 1)`. -/
theorem retry_countKept (h : retry s = .ok t) (hr : s.Running) (hn : s.Counts 1) (hc : s.ctx = .sendPacket) :
    s.CountKept t := by
  have hsucc := hr.retryCnt_succ hc
  have hcount := (hn hc).trans hsucc.symm
  have hb := hr.busy
  obtain ⟨-, -, rfl⟩ | ⟨-, -, h⟩ | ⟨hle, rfl⟩ := retry_cases h
  · exact countKept_of_busy hb fun _ => hcount
  · obtain ⟨-, rfl⟩ := startAttempt_eq_ok h
    exact countKept_of_busy hb fun _ => hcount
  · refine ⟨nofun, fun _ _ => ⟨fun _ => ⟨hcount.trans ?_, hcount.symm⟩, nofun⟩⟩
    obtain ⟨-, -, -, -, -, hpkt⟩ := hr
    have hlt : s.retryCnt.toNat < max s.xMaxRetry.toNat 1 := (hpkt hc).2
    omega

theorem failAttempt_countKept {e : ErrCode} (h : failAttempt e s = .ok t) (hr : s.Running) (hn : s.Counts 1)
    (hc : s.ctx = .sendPacket) : s.CountKept t :=
  retry_countKept (s := { s with err := { s.err with att := e } }) h hr hn hc

theorem TransmitRow.countKept (h : TransmitRow s t) (hr : s.Running) (hn : s.Counts 1) : s.CountKept t := by
  cases h with
  | sent | autoAck | broadcast => exact countKept_of_finish hr hn
  | underflow => exact countKept_of_raise nofun
  | wait => exact countKept_of_busy hr.busy hn
  | noWait hc _ _ _ h => exact failAttempt_countKept (s := { s with waitCnt := 0 }) h (hr.waiting (Nat.zero_le _)) hn hc
  | failed hc _ h => exact retry_countKept h hr hn hc

theorem ReadRow.countKept (h : ReadRow s t) (hr : s.Running) (hn : s.Counts 1) : s.CountKept t := by
  cases h with
  | receiveFailed hc => exact countKept_of_other (by obtain hc | hc := hc <;> simp [hc]) nofun
  | recvData hc | handleEmpty hc | handleShort hc | handleAck hc | handleReply hc | handleData hc =>
    exact countKept_of_other (by simp [hc]) nofun
  | acked => exact countKept_of_finish hr hn
  | badAck => exact countKept_of_busy hr.busy hn
  | retried hc _ h => exact retry_countKept h hr hn hc
  | waitFailed hc _ h => exact failAttempt_countKept h hr hn hc

/-- The count goes by the trace in which the answered request already stands. -/
theorem ResponseRow.countKept {r : Response} (h : ResponseRow s r t) (hi : s.Inv)
    (h0 : s.fsm = .txLoad → s.Counts 0) (h1 : s.fsm ≠ .txLoad → s.Counts 1) : s.CountKept t := by
  cases h with
  | busTimeout => exact countKept_of_raise nofun
  | txLoad hf => exact countKept_of_busy (hi.runningAt hf).1.busy (h0 hf)
  | txOk hf | txUnderflow hf | rdFlush hf | overflow hf | available hf | oversize hf | noPayload hf | payload hf
  | rdBody hf => exact countKept_of_busy (hi.runningAt hf).1.busy (h1 (by simp [hf]))
  | addrWr hf => exact countKept_of_other (by simp [eq_of_beq (hi.runningAt hf).2]) nofun
  | txRxgo hf h => exact h.countKept (hi.runningAt hf).1 (h1 (by simp [hf]))
  | rdRxgo hf h => exact h.countKept (hi.runningAt hf).1 (h1 (by simp [hf]))
  | empty hf _ _ h => exact h.countKept (hi.runningAt hf).1 (h1 (by simp [hf]))
  | rdTrailer hf hl h => exact h.countKept ((hi.runningAt hf).1.rxWritten (by simp; omega)) (h1 (by simp [hf]))

/-- The request that `S_TX_GO` issues is the `TX_GO` of the attempt, and no other state issues one. -/
theorem txGoCount_currentRequest {q : Request} (hq : currentRequest s = .ok (some q)) (r : Response) :
    s.fsm.transmits + txGoCount [.request q r] = if s.fsm = .txLoad then 0 else 1 := by
  cases hf : s.fsm <;> simp only [currentRequest, hf, Except.ok.injEq, Option.some.injEq, reduceCtorEq] at hq
  case txLoad =>
    obtain ⟨_, -, hq⟩ := except_map_eq_ok.1 hq
    cases hq
    rfl
  all_goals
    subst hq
    rfl

/-- An answered request joins the trace, and its row is taken. -/
theorem answered_countKept {q : Request} {r : Response} {c : Chip} (hi : s.Inv) (hn : s.TransmitsCounted)
    (hq : currentRequest s = .ok (some q)) (h : ResponseRow ({ s with chip := c }.log (.request q r)) r t) :
    s.CountKept t := by
  have hcount (hc : s.ctx = .sendPacket) : txGoCount (s.trace ++ [.request q r]) =
      s.retryCnt.toNat + if s.fsm = .txLoad then 0 else 1 := by
    rw [txGoCount_append, hn hc, Nat.add_assoc]
    exact congrArg _ (txGoCount_currentRequest hq r)
  exact h.countKept (hi.sameBlock rfl hi.held hi.flagBound)
    (fun hf hc => (hcount hc).trans (congrArg _ (if_pos hf)))
    (fun hf hc => (hcount hc).trans (congrArg _ (if_neg hf)))

/-- Whatever is no request leaves the count. -/
theorem State.TransmitsCounted.sameBlock (hn : s.TransmitsCounted) (hi : s.Inv) (hb : s.SameBlock t)
    (ht : txGoCount t.trace = txGoCount s.trace) : s.CountKept t := by
  refine ⟨?_, fun hc hf => ?_⟩
  · rw [hb]
    exact fun hc => ht.trans (hn hc)
  · rw [hb] at hf
    exact absurd ((hi.running_of_sendPacket hc).busy.symm.trans hf) nofun

theorem onAnswer_countKept {r : Reply} (hi : s.Inv) (hn : s.TransmitsCounted) (h : onAnswer r s = .ok t) :
    s.CountKept t := by
  obtain rfl | ⟨q, resp, chip, -, hq, -, h⟩ := onAnswer_cases h
  · exact hn.sameBlock hi rfl rfl
  · exact answered_countKept hi hn hq (onResponse_row h)

theorem onTick_countKept (hi : s.Inv) (hn : s.TransmitsCounted) (h : onTick s = .ok t) : s.CountKept t := by
  have htick : (s.log .tick).Counts s.fsm.transmits := fun hc => (txGoCount_append _ _).trans (hn hc)
  obtain ⟨-, rfl⟩ | ⟨-, hf, -, rfl⟩ | ⟨-, hf, -, h⟩ | ⟨-, hf, -, rfl⟩ | ⟨-, hf, -, h⟩ := onTick_cases h
  · exact hn.sameBlock hi rfl rfl
  all_goals
    obtain ⟨hr, hp⟩ := hi.runningAt hf
    rw [hf] at htick
  · exact countKept_of_busy hr.busy htick
  · exact failAttempt_countKept (s := { s.log .tick with waitCnt := s.waitCnt + 1 }) h
      (hr.waiting (le_max_of_le_left (hi.ackWait (.inr hf)))) htick (eq_of_beq hp)
  · exact countKept_of_busy hr.busy (hf ▸ htick)
  · obtain ⟨-, rfl⟩ := startAttempt_eq_ok h
    exact countKept_of_busy hr.busy htick

/-- A block that can accept a command has no `SEND_PACKET` in progress. -/
theorem countKept_of_canAccept (hi : s.Inv) (ha : s.canAccept = true) (ht : t.TransmitsCounted) : s.CountKept t :=
  ⟨ht, fun hc => by simpa [hi.idle_of_canAccept ha, hc, pairReached] using hi.pair⟩

theorem ExecRow.countKept {i : Instr} (h : ExecRow s i t) (hi : s.Inv) (hn : s.TransmitsCounted) :
    s.CountKept t := by
  cases h with
  | ignored | received | statusUnasked => exact hn.sameBlock hi rfl rfl
  | statusAnswered _ hf h =>
    have hq : currentRequest s = .ok (some .rxStatus) := by simp [currentRequest, hf]
    exact answered_countKept (c := s.chip) hi hn hq h
  | sendPacket ha => exact countKept_of_canAccept hi ha fun _ => rfl
  | refused ha | sendData ha | sendAck ha | recvData ha | recvHandle ha | pktAvail ha | setAddr ha | wrPay ha
  | rdRx ha =>
    exact countKept_of_canAccept hi ha nofun

theorem setRst_countKept (b : Bool) (hi : s.Inv) (hn : s.TransmitsCounted) : s.CountKept (setRst b s) := by
  cases b with
  | true => exact ⟨nofun, fun _ _ => ⟨nofun, nofun⟩⟩
  | false => exact hn.sameBlock hi rfl rfl

theorem setDataReady_countKept (b : Bool) (hi : s.Inv) (hn : s.TransmitsCounted) :
    s.CountKept (setDataReady b s) := by
  unfold setDataReady
  simp only
  split
  · exact hn.sameBlock hi rfl (txGoCount_append _ _)
  · exact hn.sameBlock hi rfl rfl

theorem react_countKept (hi : s.Inv) (hn : s.TransmitsCounted) (h : react s = .next t) : s.CountKept t := by
  have ha : s.advance.Inv := hi.sameBlock rfl hi.held hi.flagBound
  have hn' : s.advance.TransmitsCounted := hn
  change s.advance.CountKept t
  obtain ⟨c, i, -, -, h⟩ | ⟨c, e, -, -, rfl⟩ | ⟨r, -, h⟩ | ⟨-, rfl⟩ | ⟨-, h⟩ | ⟨b, -, rfl⟩ | ⟨b, -, rfl⟩ |
    ⟨b, -, rfl⟩ | ⟨bs, o, -, rfl⟩ | ⟨-, rfl⟩ := react_cases h
  · exact (exec_row h).countKept ha hn'
  · exact hn'.sameBlock ha rfl rfl
  · exact onAnswer_countKept ha hn' h
  · exact hn'.sameBlock ha rfl rfl
  · exact onTick_countKept ha hn' h
  · exact setRst_countKept b ha hn'
  · exact hn'.sameBlock ha rfl rfl
  · exact setDataReady_countKept b ha hn'
  · exact hn'.sameBlock ha rfl rfl
  · exact hn'.sameBlock ha rfl rfl

/-- The poll of the ACK wait is no request, and the attempt stays one that has transmitted. -/
theorem thenPoll_transmits (u t : State) : txGoCount (u.thenPoll t).trace = txGoCount t.trace ∧
    (u.thenPoll t).fsm.transmits = t.fsm.transmits := by
  by_cases ht : t.ports.rst = true ∨ t.fsm ≠ .ackPoll
  · rw [thenPoll_left ht]
    exact ⟨rfl, rfl⟩
  by_cases hu : u.fsm = .ackPoll
  · simp only [ne_eq, not_or, Bool.not_eq_true, not_not] at ht
    obtain ⟨hr, hf⟩ := ht
    rw [thenPoll_ackPoll hu hr hf, hf]
    refine ⟨txGoCount_append _ _, ?_⟩
    dsimp only
    split <;> rfl
  · rw [thenPoll_other hu]
    exact ⟨rfl, rfl⟩

theorem State.CountKept.thenPoll (h : s.CountKept t) (u : State) : s.CountKept (u.thenPoll t) := by
  obtain ⟨hn, hend⟩ := h
  obtain ⟨htrace, hfsm⟩ := thenPoll_transmits u t
  rw [transmitsCounted_iff, ← hfsm] at hn
  rw [← htrace] at hend
  rw [thenPoll_eq]
  exact ⟨fun hc => htrace.trans (hn hc), hend⟩

end

/-- Settles O59: the rows of the transition table keep the count, and so do the other events and the poll. -/
theorem transmitsAreCounted : Obligations.TransmitsAreCounted := by
  intro s t hi hn h
  obtain ⟨u, hu, rfl⟩ := step_eq_next.1 h
  obtain ⟨hcount, hend⟩ := (react_countKept hi hn hu).thenPoll s
  exact ⟨hcount, fun hc _ => hend hc⟩

end Sys2Proof.Machine

namespace Sys2Proof.Machine

/-! # The comparators (41_link.md R120 to R122) -/

/-- A buffer holds a byte string where it reads each of its bytes. -/
theorem Mem.readBytes_eq_iff {m : Mem} {a : Nat} {bs : List Byte} :
    Mem.readBytes m a bs.length = bs ↔ ∀ i (h : i < bs.length), Mem.read m (a + i) = bs[i] := by
  refine ⟨fun h i hi => ?_, fun h => List.ext_getElem (by simp) fun i hi hi' => ?_⟩
  · rw [← Mem.getElem_readBytes m a bs.length i (by simpa using hi)]
    simp only [h]
  · rw [Mem.getElem_readBytes, h i hi']

section
variable {self peer : Byte} {s t : State}

/-- `IsAck(self, peer)` is its five conditions (R121). -/
theorem isAck_iff : isAck self peer s = true ↔
    (s.byteAt .rxbuf 0).toNat = 2 + s.cfg.ackTag.length ∧ s.byteAt .rxbuf 1 = self ∧
      s.byteAt .rxbuf 1 ≠ s.cfg.broadcastAddr ∧ s.byteAt .rxbuf 2 = peer ∧
      ∀ i (h : i < s.cfg.ackTag.length), s.byteAt .rxbuf (3 + i) = s.cfg.ackTag[i] := by
  have htag : Mem.readBytes s.rxbuf 3 s.cfg.ackTagLen = s.cfg.ackTag ↔ _ := Mem.readBytes_eq_iff
  simp only [isAck, isBroadcast, Bool.and_eq_true, decide_eq_true_eq, beq_iff_eq, Bool.not_eq_true',
    beq_eq_false_iff_ne, and_assoc, htag]
  rfl

theorem autoReply_iff : autoReply s = true ↔ s.byteAt .rxbuf 1 ≠ s.cfg.broadcastAddr := by
  simp [autoReply, isBroadcast]

/-- The record that is the ACK for (self, peer) is one, byte for byte. -/
theorem byteAt_eq_of_isAck {i : Nat} (hs : isAck self peer s = true) (ht : isAck self peer t = true)
    (hcfg : t.cfg = s.cfg) (hi : i ≤ 2 + s.cfg.ackTagLen) : t.byteAt .rxbuf i = s.byteAt .rxbuf i := by
  obtain ⟨slen, sdest, -, ssrc, stag⟩ := isAck_iff.1 hs
  obtain ⟨tlen, tdest, -, tsrc, ttag⟩ := isAck_iff.1 ht
  simp only [hcfg] at tlen ttag
  match i with
  | 0 => exact BitVec.eq_of_toNat_eq (tlen.trans slen.symm)
  | 1 => exact tdest.trans sdest.symm
  | 2 => exact tsrc.trans ssrc.symm
  | j + 3 =>
    have hj : j < s.cfg.ackTag.length := by
      rw [Params.ackTagLen] at hi
      omega
    rw [Nat.add_comm j, ttag j hj, stag j hj]

theorem isAck_broadcast : isAck s.cfg.broadcastAddr peer s = false := by
  refine Bool.eq_false_of_not_eq_true fun h => ?_
  obtain ⟨-, hdest, hne, -⟩ := isAck_iff.1 h
  exact hne hdest

end

/-- Settles O15: the conditions one by one; the tag is compared as a byte string, that is byte by byte. -/
theorem isAckIsTheSignature : Obligations.IsAckIsTheSignature :=
  fun _ _ _ => ⟨fun _ => isBroadcast_iff, isAck_iff, autoReply_iff⟩

/-- Settles O16: two records that are the ACK agree in every byte of it, and the mutated byte differs. -/
theorem mutatedAckIsNotRecognised : Obligations.MutatedAckIsNotRecognised := by
  refine ⟨fun self peer v i s hm hack hi hv => ?_, fun peer s => isAck_broadcast⟩
  refine Bool.eq_false_of_not_eq_true fun hmut => hv ?_
  rw [← byteAt_eq_of_isAck hack hmut rfl hi, byteAt_rx, Mem.read_write_same i v hm]

/-! # The accepting steps of the link layer (43_sequencer.md R166 rows 3, 4) -/

/-- Settles O26: the three tests pass and `BuildAddressed` is defined, its length byte at most `MAX_LEN`. -/
theorem sendPacketStarts : Obligations.SendPacketStarts := by
  intro self dest retries n s ha hr hl hp hm hn
  obtain ⟨-, -, hmax, -⟩ := Params.wf_iff.1 hp
  refine ⟨_, begin_accepted ha ?_, addressedBuilt_writeBytes hm (hn.trans hmax)⟩
  exact (requireLink_present (s := accept _ s) hl).trans ((requireReady_ready (s := accept _ s) hr).trans
    ((requireRange_inside (sendPacketInRange_iff.2 hn)).trans
      (except_map_eq_ok.2 ⟨_, buildAddressed_inside hn, rfl⟩)))

/-- Settles O27: the two tests pass, and `BuildAck` is defined for every admitted tag. -/
theorem sendAckStarts : Obligations.SendAckStarts := by
  intro self peer u s ha hr hl hp hm
  obtain ⟨-, htag, hmax, -⟩ := Params.wf_iff.1 hp
  refine ⟨_, begin_accepted ha ?_, ackBuilt_writeBytes hm (by omega)⟩
  exact (requireLink_present (s := accept _ s) hl).trans ((requireReady_ready (s := accept _ s) hr).trans
    (except_map_eq_ok.2 ⟨_, buildAck_inside hp, rfl⟩))

/-! # `SEND_ACK` and a broadcast `SEND_PACKET` as a whole (41_link.md R126, R129 a) -/

theorem lenByte_of_toNat {b : Byte} {n : Nat} (h : b.toNat = n) : lenByte n = b := by
  rw [← h]
  exact BitVec.ofNat_toNat 8 b

/-- A buffer that holds the length byte, the addresses and the data of a frame begins with the frame (R91, R92). -/
theorem readBytes_addressedFrame {m : Mem} {dest src : Byte} {data : List Byte}
    (hlen : (Mem.read m 0).toNat = data.length + 2) (hdest : Mem.read m 1 = dest) (hsrc : Mem.read m 2 = src)
    (hdata : ∀ i (h : i < data.length), Mem.read m (3 + i) = data[i]) :
    Mem.readBytes m 0 ((Mem.read m 0).toNat + 1) = addressedFrame dest src data := by
  rw [hlen, addressedFrame, lenByte_of_toNat hlen, ← hdest, ← hsrc, ← Mem.readBytes_eq_iff.2 hdata]
  rw [Mem.length_readBytes]
  rfl

theorem AckBuilt.readBytes {p : Params} {self peer : Byte} {old new : Mem} (h : AckBuilt p self peer old new) :
    Mem.readBytes new 0 ((Mem.read new 0).toNat + 1) = lenByte (2 + p.ackTagLen) :: peer :: self :: p.ackTag := by
  obtain ⟨hlen, hpeer, hself, htag, -⟩ := h
  rw [Nat.add_comm 2] at hlen ⊢
  exact readBytes_addressedFrame hlen hpeer hself htag

theorem AddressedBuilt.readBytes {self dest n : Byte} {pay old new : Mem}
    (h : AddressedBuilt self dest n pay old new) : Mem.readBytes new 0 ((Mem.read new 0).toNat + 1) =
      lenByte (n.toNat + 2) :: dest :: self :: Mem.readBytes pay 0 n.toNat := by
  obtain ⟨hlen, hdest, hself, hdata, -⟩ := h
  have hn : (Mem.readBytes pay 0 n.toNat).length = n.toNat := Mem.length_readBytes pay 0 n.toNat
  refine (readBytes_addressedFrame (data := Mem.readBytes pay 0 n.toNat) (by rwa [hn]) hdest hself
    fun i hi => ?_).trans (by rw [addressedFrame, hn])
  simpa using hdata i (by rwa [hn] at hi)

/-- Settles O31: the accepting step, and a transmit that `SEND_ACK` ends. -/
theorem sendAckSendsOneFrame : Obligations.SendAckSendsOneFrame := by
  intro self peer u s sent tail hi ha hr hl hs
  obtain ⟨-, htag, -⟩ := Params.wf_iff.1 hi.params
  have hf : s.fsm ≠ .ackPoll := by simp [hi.idle_of_canAccept ha]
  obtain ⟨m, hstart, (hbuilt : AckBuilt s.cfg self peer s.txbuf m)⟩ :=
    sendAckStarts self peer u (s.past _) ha hr hl hi.params hi.txForm.1
  refine ⟨m, { s.chip with txFifo := [], mode := .receive }, hbuilt, rfl, rfl,
    reaches_of_step ((step_command (i := .sendAck ..) hf hs rfl hl).trans hstart)
      (reaches_of_transmit (canAccept_iff.1 ha).1 rfl ?len rfl ?ends)⟩
  case len =>
    obtain ⟨hlen, -⟩ := hbuilt
    rwa [byteAt_tx, hlen]
  case ends =>
    have hcode : raiseRxCode s.cfg.linkLayer (wordSendAck self peer u) .txUnderflow = .ack :=
      raiseRxCode_other _ (.inr (by simp))
    refine (afterTransmit_plain (.inr rfl) hcode).trans ?_
    rw [← hbuilt.readBytes]
    cases sent <;> rfl

/-- Settles O32: the accepting step, and a transmit after which a broadcast ends the command. -/
theorem broadcastSendNeverWaits : Obligations.BroadcastSendNeverWaits := by
  intro self retries n s tail hi ha hr hl hn hs
  have hf : s.fsm ≠ .ackPoll := by simp [hi.idle_of_canAccept ha]
  obtain ⟨m, hstart, (hbuilt : AddressedBuilt self s.cfg.broadcastAddr n s.pay s.txbuf m)⟩ :=
    sendPacketStarts self s.cfg.broadcastAddr retries n (s.past _) ha hr hl hi.params hi.txForm.1 hn
  refine ⟨m, { s.chip with txFifo := [], mode := .receive }, hbuilt, rfl, rfl,
    reaches_of_step ((step_command (i := .sendPacket ..) hf hs rfl hl).trans hstart)
      (reaches_of_transmit (sent := true) (canAccept_iff.1 ha).1 rfl ?len rfl ?ends)⟩
  case len =>
    obtain ⟨hlen, -⟩ := hbuilt
    rwa [byteAt_tx, hlen]
  case ends =>
    refine (afterTransmit_broadcast rfl rfl rfl).trans ?_
    rw [← hbuilt.readBytes]
    rfl

end Sys2Proof.Machine

namespace Sys2Proof.Machine

/-! # The retry and the backoff (41_link.md R125) -/

section
variable {s t : State} {es : List Event}

theorem retry_backoff (hlt : (s.retryCnt + 1).toNat < s.xMaxRetry.toNat) (hB : s.cfg.backoffTicks ≠ 0) :
    retry s = .ok { s with retryCnt := s.retryCnt + 1, waitCnt := 0, fsm := .backoff } := by
  rw [retry, if_pos hlt, if_neg hB]

theorem retry_again (hlt : (s.retryCnt + 1).toNat < s.xMaxRetry.toNat) (hB : s.cfg.backoffTicks = 0) :
    retry s = startAttempt { s with retryCnt := s.retryCnt + 1, waitCnt := 0 } := by
  rw [retry, if_pos hlt, if_pos hB]

theorem retry_exhausted (hle : s.xMaxRetry.toNat ≤ (s.retryCnt + 1).toNat) :
    retry s = .ok (raiseError .retries { s with retryCnt := s.retryCnt + 1 }) := by
  rw [retry, if_neg hle.not_gt]

/-- Step 1 of an attempt where the frame fits (41_link.md R123). -/
theorem startAttempt_inside (hn : s.xN.toNat + 2 ≤ s.cfg.maxLen) : startAttempt s = .ok { s with
    txbuf := Mem.writeBytes s.txbuf 0 (addressedFrame s.xPeer s.xSelf (Mem.readBytes s.pay 0 s.xN.toNat))
    fsm := .txLoad } :=
  except_map_eq_ok.2 ⟨_, buildAddressed_inside hn, rfl⟩

theorem step_tick (hf : s.fsm ≠ .ackPoll) (he : s.script = .tick :: es) (ht : onTick (s.past es) = .ok t) :
    step s = .next t := by
  rw [step_other hf, react_tick (nextEvent_cons s he), advance_eq_past he, ht, outcome_ok]

theorem onTick_backoff (hr : s.ports.rst = false) (hf : s.fsm = .backoff)
    (hw : s.waitCnt + 1 < s.cfg.backoffTicks) : onTick s = .ok { s.log .tick with waitCnt := s.waitCnt + 1 } := by
  simp [onTick, hr, hf, hw]

theorem onTick_backoffEnds (hr : s.ports.rst = false) (hf : s.fsm = .backoff)
    (hw : s.waitCnt + 1 = s.cfg.backoffTicks) :
    onTick s = startAttempt { s.log .tick with waitCnt := s.waitCnt + 1 } := by
  simp [onTick, hr, hf, hw]

/-- `s` after `k` ticks that it waited for, before the last one is acted on. -/
def State.ticked (k : Nat) (es : List Event) (s : State) : State :=
  { s with waitCnt := s.waitCnt + k, script := es, now := s.now + k, trace := s.trace ++ List.replicate k .tick }

/-- A backoff of `k + 1` ticks, and then the next attempt starts. -/
theorem reaches_of_backoff (k : Nat) (hr : s.ports.rst = false) (hf : s.fsm = .backoff)
    (hw : s.waitCnt + (k + 1) = s.cfg.backoffTicks) (hs : s.script = List.replicate (k + 1) .tick ++ es)
    (ht : startAttempt (s.ticked (k + 1) es) = .ok t) : reaches (k + 1) s t := by
  have hne : s.fsm ≠ .ackPoll := by simp [hf]
  induction k generalizing s with
  | zero => exact reaches_one (step_tick hne hs ((onTick_backoffEnds (s := s.past es) hr hf hw).trans ht))
  | succ k ih =>
    have hlt : s.waitCnt + 1 < s.cfg.backoffTicks := by omega
    refine reaches_of_step (step_tick hne hs (onTick_backoff (s := s.past _) hr hf hlt)) ?_
    have hrest : s.waitCnt + 1 + (k + 1) = s.cfg.backoffTicks := by omega
    refine ih hr hf hrest rfl ((congrArg startAttempt ?_).trans ht) hne
    simp [State.ticked, State.past, State.log, List.replicate_succ, Nat.add_comm, Nat.add_left_comm]

end

/-- Settles O43: `RETRY` by its two tests, and the backoff by induction over its ticks. -/
theorem retryDecision : Obligations.RetryDecision := by
  intro s hi hc
  have hrun := hi.running_of_sendPacket hc
  have hsucc := hrun.retryCnt_succ hc
  have hn := hi.dataLen hc
  obtain ⟨hm, -⟩ := hi.txForm
  obtain ⟨-, -, hmax, -⟩ := Params.wf_iff.1 hi.params
  have hbuilt := addressedBuilt_writeBytes (self := s.xSelf) (dest := s.xPeer) (pay := s.pay) hm (hn.trans hmax)
  rw [← hsucc]
  refine ⟨fun hlt hB => retry_backoff hlt hB.ne', fun hlt hB => ⟨_, ?again, hbuilt⟩, fun hle => ?exhausted,
    fun tail hr hf hw hs => ⟨_, ?backoff, hbuilt⟩⟩
  case again => exact (retry_again hlt hB).trans (startAttempt_inside hn)
  case exhausted =>
    have hcode : raiseRxCode s.cfg.linkLayer s.cmdw .retries = .ack :=
      (hrun.raiseRxCode_eq (by rw [hc]; rfl) (by simp)).trans (by rw [hc]; rfl)
    exact (retry_exhausted hle).trans (congrArg _ (raiseError_eq_of_code hcode))
  case backoff =>
    obtain ⟨k, hk⟩ : ∃ k, s.cfg.backoffTicks = k + 1 := Nat.exists_eq_add_one.2 (hw ▸ hi.backoffWait hf)
    rw [hk] at hs ⊢
    refine reaches_of_backoff k hr hf (by omega) hs
      ((startAttempt_inside (s := s.ticked (k + 1) tail) hn).trans (congrArg _ ?_))
    simp [State.ticked, hw]

end Sys2Proof.Machine

namespace Sys2Proof.Machine

/-! # The ACK wait (41_link.md R124, 43_sequencer.md R166 rows 18 to 21, R170) -/

section
variable {s t u : State} {es : List Event}

theorem pollTake_rxFlag (s : State) : (pollTake s).rxFlag =
    if pollReady s = true ∧ s.cfg.rxSignalMode = .edge then s.rxFlag - 1 else s.rxFlag := by
  unfold pollTake pollReady
  cases s.cfg.rxSignalMode with
  | level => simp
  | edge =>
    simp only [decide_eq_true_eq, and_true]
    split <;> omega

/-- What `Poll()` looks at (42_system.md R151). -/
theorem pollReady_congr (hcfg : u.cfg = s.cfg) (hd : u.ports.dataReady = s.ports.dataReady)
    (hf : u.rxFlag = s.rxFlag) : pollReady u = pollReady s := by
  unfold pollReady
  rw [hcfg, hd, hf]

/-- An event has led from `s` to `u` that has moved nothing of the block, and nothing that a poll looks at. -/
structure State.SamePoll (s u : State) : Prop where
  block : s.SameBlock u
  released : u.ports.rst = false
  dataReady : u.ports.dataReady = s.ports.dataReady
  rxFlag : u.rxFlag = s.rxFlag
  trace : u.trace = s.trace

theorem samePoll_self (hr : s.ports.rst = false) : s.SamePoll s := ⟨rfl, hr, rfl, rfl, rfl⟩

/-- In `S_ACK_POLL` no command is accepted and no response awaited. -/
theorem ExecRow.samePoll {i : Instr} (h : ExecRow s i u) (hr : s.ports.rst = false) (hb : s.status.busy = true)
    (hf : s.fsm = .ackPoll) : s.SamePoll u := by
  have hna : s.canAccept ≠ true := fun ha => by simp [(canAccept_iff.1 ha).2] at hb
  cases h with
  | ignored | statusUnasked => exact samePoll_self hr
  | received => exact ⟨rfl, hr, rfl, rfl, rfl⟩
  | statusAnswered _ hf' => simp [hf] at hf'
  | refused ha | sendData ha | sendPacket ha | sendAck ha | recvData ha | recvHandle ha | pktAvail ha | setAddr ha
  | wrPay ha | rdRx ha => exact absurd ha hna

theorem onAnswer_samePoll {r : Reply} (hr : s.ports.rst = false) (hf : s.fsm = .ackPoll)
    (h : onAnswer r s = .ok u) : s.SamePoll u := by
  obtain rfl | ⟨q, _, _, -, hq, -⟩ := onAnswer_cases h
  · exact samePoll_self hr
  · simp [currentRequest, hf] at hq

theorem onTick_samePoll (hr : s.ports.rst = false) (hf : s.fsm = .ackPoll) (h : onTick s = .ok u) :
    s.SamePoll u := by
  obtain ⟨-, rfl⟩ | ⟨-, hf', -⟩ | ⟨-, hf', -⟩ | ⟨-, hf', -⟩ | ⟨-, hf', -⟩ := onTick_cases h
  · exact samePoll_self hr
  all_goals simp [hf] at hf'

theorem react_samePoll (hi : s.Inv) (hr : s.ports.rst = false) (hf : s.fsm = .ackPoll)
    (he : s.nextEvent ≠ .rst true) (hd : ∀ b, s.nextEvent ≠ .dataReady b) (h : react s = .next u) :
    s.SamePoll u := by
  have hb := (hi.runningAt hf).1.busy
  suffices hp : s.advance.SamePoll u from { hp with }
  obtain ⟨c, i, -, -, h⟩ | ⟨c, e, -, -, rfl⟩ | ⟨r, -, h⟩ | ⟨-, rfl⟩ | ⟨-, h⟩ | ⟨b, hb', rfl⟩ | ⟨b, -, rfl⟩ |
    ⟨b, hb', rfl⟩ | ⟨bs, o, -, rfl⟩ | ⟨-, rfl⟩ := react_cases h
  · exact (exec_row h).samePoll hr hb hf
  · exact samePoll_self hr
  · exact onAnswer_samePoll hr hf h
  · exact samePoll_self hr
  · exact onTick_samePoll hr hf h
  · cases b with
    | true => exact absurd hb' he
    | false => exact ⟨rfl, rfl, rfl, rfl, rfl⟩
  · exact ⟨rfl, hr, rfl, rfl, rfl⟩
  · exact absurd hb' (hd b)
  · exact ⟨rfl, hr, rfl, rfl, rfl⟩
  · exact ⟨rfl, hr, rfl, rfl, rfl⟩

/-- The poll of a step whose event has moved nothing of the block (R170). -/
theorem step_samePoll (hf : s.fsm = .ackPoll) (hu : react s = .next u) (h : s.SamePoll u) : step s = .next { u with
    rxFlag := if pollReady s = true ∧ s.cfg.rxSignalMode = .edge then s.rxFlag - 1 else s.rxFlag
    trace := s.trace ++ [.poll (pollReady s)]
    fsm := if pollReady s then .rdStatus else .ackTick } := by
  obtain ⟨hb, hr, hd, hflag, htrace⟩ := h
  have hcfg : u.cfg = s.cfg := by rw [hb]
  have huf : u.fsm = .ackPoll := by rw [hb, hf]
  rw [step_of_react hu, thenPoll_ackPoll hf hr huf, pollTake_rxFlag, pollReady_congr hcfg hd hflag, hcfg, hflag,
    htrace]

theorem step_poll (hr : s.ports.rst = false) (hf : s.fsm = .ackPoll) (he : s.nextEvent = .poll) :
    step s = .next { s.advance with
      fsm := if pollReady s then .rdStatus else .ackTick
      rxFlag := if pollReady s = true ∧ s.cfg.rxSignalMode = .edge then s.rxFlag - 1 else s.rxFlag
      trace := s.trace ++ [.poll (pollReady s)] } :=
  step_samePoll hf (react_poll he) ⟨rfl, hr, rfl, rfl, rfl⟩

/-- A rise of `data_ready` is counted, and the poll that follows it sees it (20_memory.md R49, 42_system.md R152). -/
theorem step_rise (hw : s.cfg.wf = true) (hr : s.ports.rst = false) (hf : s.fsm = .ackPoll)
    (he : s.nextEvent = .dataReady true) (hd : s.ports.dataReady = false) : step s = .next { s.advance with
      ports := { s.ports with dataReady := true }
      fsm := .rdStatus
      rxFlag := if s.cfg.rxSignalMode = .edge then min (s.rxFlag + 1) s.cfg.rxFlagDepth - 1
                else min (s.rxFlag + 1) s.cfg.rxFlagDepth
      trace := s.trace ++ [.edge, .poll true] } := by
  obtain ⟨-, -, -, -, -, -, hdepth⟩ := Params.wf_iff.1 hw
  have hrise : setDataReady true s.advance =
      dataReadyEdge { s.advance with ports := { s.ports with dataReady := true } } := by simp [setDataReady, hr, hd]
  have hready : pollReady (setDataReady true s.advance) = true := by
    rw [hrise]
    cases hm : s.cfg.rxSignalMode
    · simp [pollReady, dataReadyEdge, State.log, hm]
    · simp [pollReady, dataReadyEdge, State.log, hm]
      omega
  rw [step_of_react (react_dataReady he), thenPoll_ackPoll hf (by rw [hrise]; exact hr) (by rw [hrise]; exact hf),
    pollTake_rxFlag, hready, hrise]
  simp [dataReadyEdge, State.log]

/-! ## The wait in which no poll finds anything (60_exceptions.md R189) -/

/-- `s` after `k` polls with a tick after each, before the last tick is acted on. -/
def State.polled (k : Nat) (es : List Event) (s : State) : State :=
  { s with
    fsm := .ackTick
    waitCnt := s.waitCnt + k
    script := es
    now := s.now + 2 * k
    trace := s.trace ++ (List.replicate k [Interaction.poll false, Interaction.tick]).flatten }

/-- A poll that finds nothing. -/
theorem step_emptyPoll (hr : s.ports.rst = false) (hf : s.fsm = .ackPoll) (hp : pollReady s = false)
    (he : s.script = .poll :: es) :
    step s = .next { s.past es with fsm := .ackTick, trace := s.trace ++ [.poll false] } := by
  rw [step_poll hr hf (nextEvent_cons s he), hp, advance_eq_past he]
  rfl

theorem onTick_ackTick (hr : s.ports.rst = false) (hf : s.fsm = .ackTick)
    (hw : s.waitCnt + 1 < s.cfg.ackTimeoutSteps) :
    onTick s = .ok { s.log .tick with waitCnt := s.waitCnt + 1, fsm := .ackPoll } := by
  simp [onTick, hr, hf, hw]

theorem onTick_ackTimeout (hr : s.ports.rst = false) (hf : s.fsm = .ackTick)
    (hw : s.waitCnt + 1 = s.cfg.ackTimeoutSteps) :
    onTick s = failAttempt .ackTimeout { s.log .tick with waitCnt := s.waitCnt + 1 } := by
  simp [onTick, hr, hf, hw]

/-- `k + 1` polls that find nothing, with one tick after each, and then the attempt fails. -/
theorem reaches_of_ackTimeout (k : Nat) (hr : s.ports.rst = false) (hf : s.fsm = .ackPoll) (hp : pollReady s = false)
    (hw : s.waitCnt + (k + 1) = s.cfg.ackTimeoutSteps)
    (hs : s.script = (List.replicate (k + 1) [Event.poll, Event.tick]).flatten ++ es)
    (ht : failAttempt .ackTimeout (s.polled (k + 1) es) = .ok t) : reaches (2 * (k + 1)) s t := by
  induction k generalizing s with
  | zero =>
    refine reaches_of_step (step_emptyPoll hr hf hp hs) (reaches_one ?_)
    refine step_tick (by simp) rfl (Eq.trans (onTick_ackTimeout hr rfl hw) ((congrArg _ ?_).trans ht))
    simp [State.polled, State.past, State.log]
  | succ k ih =>
    have hlt : s.waitCnt + 1 < s.cfg.ackTimeoutSteps := by omega
    have hrest : s.waitCnt + 1 + (k + 1) = s.cfg.ackTimeoutSteps := by omega
    refine reaches_of_step (step_emptyPoll hr hf hp hs)
      (reaches_of_step (step_tick (by simp) rfl (onTick_ackTick hr rfl hlt)) ?_)
    refine ih hr rfl hp hrest rfl ((congrArg _ ?_).trans ht)
    simp [State.polled, State.past, State.log, List.replicate_succ, Nat.add_comm, Nat.add_left_comm]
    omega

/-- A last attempt that fails leaves the wait counter. -/
theorem failAttempt_waitCnt {e : ErrCode} (hr : s.Running) (hc : s.ctx = .sendPacket)
    (hle : s.xMaxRetry.toNat ≤ s.retryCnt.toNat + 1) (h : failAttempt e s = .ok t) : t.waitCnt = s.waitCnt := by
  rw [← hr.retryCnt_succ hc] at hle
  cases (retry_exhausted (s := { s with err := { s.err with att := e } }) hle).symm.trans h
  rfl

end

/-- Settles O42: the poll of a step sees what its event has left, and the wait is counted by induction over its ticks. -/
theorem ackWaitPollsAndTimesOut : Obligations.AckWaitPollsAndTimesOut := by
  intro s hi hr hf found
  have hfound : pollReady s = found := rfl
  rw [← hfound]
  refine ⟨step_poll hr hf, step_rise hi.params hr hf, fun he hd => ?other, fun tail hw hp hs => ?timeout⟩
  case other =>
    obtain ⟨u, hu⟩ := react_next hi
    have hsame := react_samePoll hi hr hf he hd hu
    refine ⟨_, step_samePoll hf hu hsame, ?_, rfl, rfl, rfl⟩
    obtain ⟨hb, -⟩ := hsame
    rw [hb]
    rfl
  case timeout =>
    obtain ⟨hrun, hpair⟩ := hi.runningAt hf
    obtain ⟨k, hk⟩ : ∃ k, s.cfg.ackTimeoutSteps = k + 1 := Nat.exists_eq_add_one.2 (hw ▸ hi.ackWait (.inl hf))
    have hlast : s.waitCnt + (k + 1) = s.cfg.ackTimeoutSteps := by omega
    have hrun' : (s.polled (k + 1) tail).Running :=
      hrun.waiting (n := s.waitCnt + (k + 1)) (hlast.trans_le (le_max_left ..))
    obtain ⟨t, ht, hfailed, hframe⟩ := failAttempt_next .ackTimeout hrun' (eq_of_beq hpair)
    rw [hk] at hs ⊢
    refine ⟨t, reaches_of_ackTimeout k hr hf hp hlast hs ht, hfailed, ?script, ?chip, ?rxbuf, ?rdres, ?txres,
      fun hle => ?wait, ?trace⟩
    case wait => exact (failAttempt_waitCnt hrun' (eq_of_beq hpair) hle ht).trans (hlast.trans hk)
    all_goals
      rw [hframe]
      rfl

end Sys2Proof.Machine

namespace Sys2Proof.Machine

/-! # What a record in `RXBUF` says (41_link.md R121, R127) -/

section
variable {s : State} {old : Mem} {self peer dest src t0 t1 : Byte} {payload data : List Byte}

/-- A record in `RXBUF` is the ACK for (self, peer) when its payload is (R121). -/
theorem RecordRead.isAck_iff (h : RecordRead payload t0 t1 old s.rxbuf) :
    isAck self peer s = true ↔ payload = self :: peer :: s.cfg.ackTag ∧ self ≠ s.cfg.broadcastAddr := by
  obtain ⟨hlen, hdata, -⟩ := h
  rw [Machine.isAck_iff]
  constructor
  · rintro ⟨hl, rfl, hne, rfl, htag⟩
    have hp : Mem.readBytes s.rxbuf 1 payload.length = payload := Mem.readBytes_eq_iff.2 hdata
    rw [(hlen.symm.trans hl).trans (Nat.add_comm 2 _)] at hp
    exact ⟨hp.symm.trans (congrArg (_ :: _ :: ·) (Mem.readBytes_eq_iff.2 htag)), hne⟩
  · rintro ⟨rfl, hne⟩
    have hself : s.byteAt .rxbuf 1 = self := hdata 0 (by simp)
    refine ⟨hlen.trans (Nat.add_comm _ 2), hself, hself ▸ hne, hdata 1 (by simp), fun i hi => ?_⟩
    rw [show 3 + i = 1 + (i + 2) by omega]
    exact hdata (i + 2) (by simpa using hi)

theorem RecordRead.headTaken (h : RecordRead (dest :: src :: data) t0 t1 old s.rxbuf) :
    s.headTaken = { s with rLen := lenByte (data.length + 2), rDest := dest, rSrc := src } := by
  obtain ⟨hlen, hdata, -⟩ := h
  have hcount : s.byteAt .rxbuf 0 = lenByte (data.length + 2) := (lenByte_of_toNat hlen).symm
  have hdest : s.byteAt .rxbuf 1 = dest := hdata 0 (by simp)
  have hsrc : s.byteAt .rxbuf 2 = src := hdata 1 (by simp)
  rw [State.headTaken, hcount, hdest, hsrc]

theorem RecordRead.trailerTaken (h : RecordRead payload t0 t1 old s.rxbuf) :
    s.trailerTaken = { s with rRssiRaw := t0, rLqiRaw := t1 } := by
  obtain ⟨hlen, -, hrssi, hlqi, -⟩ := h
  rw [← hlen] at hrssi hlqi
  rw [State.trailerTaken, ← hrssi, ← hlqi]
  rfl

end

/-! # `RECV_HANDLE` on a record (41_link.md R127, R128) -/

theorem reaches_trans {k j : Nat} {s t u : State} (h : reaches k s t) (hu : reaches j t u) : reaches (j + k) s u := by
  induction k generalizing s with
  | zero =>
    obtain rfl := reaches_zero_iff.1 h
    exact hu
  | succ k ih =>
    obtain ⟨v, hv, h⟩ := reaches_succ_iff.1 h
    exact reaches_of_step hv (ih h)

section
variable {s : State} {old : Mem} {dest src t0 t1 : Byte} {payload data : List Byte}

/-- A record without two addresses is refused by its length (R127, 60_exceptions.md R193). -/
theorem dispatch_recvHandle_short (hc : s.ctx = .recvHandle) (hr : s.rdres = .ok)
    (h : RecordRead payload t0 t1 old s.rxbuf) (hl : payload.length ≤ 1) :
    dispatch s = .ok (raiseError (if payload = [] then .empty else .short) s) := by
  obtain ⟨(hlen : (s.byteAt .rxbuf 0).toNat = payload.length), -⟩ := h
  simp only [dispatch, hc, dispatchRecvHandle, hr]
  cases payload with
  | nil =>
    have h0 : s.byteAt .rxbuf 0 = 0x00#8 := BitVec.eq_of_toNat_eq hlen
    rw [if_pos h0, if_pos rfl]
  | cons p ps =>
    have h1 : s.byteAt .rxbuf 0 = 0x01#8 := BitVec.eq_of_toNat_eq (hlen.trans (hl.antisymm (by simp)))
    rw [if_neg (by simp [h1]), if_pos h1, if_neg (by simp)]

/-- A record with two addresses is classified. -/
theorem dispatch_recvHandle_addressed (hc : s.ctx = .recvHandle) (hr : s.rdres = .ok)
    (h : RecordRead (dest :: src :: data) t0 t1 old s.rxbuf) : dispatch s = classify s := by
  obtain ⟨hlen, -⟩ := h
  have hl : 2 ≤ (s.byteAt .rxbuf 0).toNat := by simp [byteAt_rx, hlen]
  have h0 : s.byteAt .rxbuf 0 ≠ 0x00#8 := by bv_omega
  have h1 : s.byteAt .rxbuf 0 ≠ 0x01#8 := by bv_omega
  simp [dispatch, hc, dispatchRecvHandle, hr, h0, h1]

theorem classify_ack (h : RecordRead (s.xSelf :: s.xPeer :: s.cfg.ackTag) t0 t1 old s.rxbuf)
    (hne : s.xSelf ≠ s.cfg.broadcastAddr) : classify s = .ok (finish true .ack { s with
      rLen := lenByte (s.cfg.ackTagLen + 2), rDest := s.xSelf, rSrc := s.xPeer }) := by
  rw [classify_eq, if_pos (h.isAck_iff.2 ⟨rfl, hne⟩), h.headTaken]
  rfl

/-- `s` with the packet registers filled from a record (R127). -/
def State.reported (dest src : Byte) (data : List Byte) (t0 t1 : Byte) (s : State) : State :=
  { s with rLen := lenByte (data.length + 2), rDest := dest, rSrc := src, rRssiRaw := t0, rLqiRaw := t1 }

section
variable (h : RecordRead (dest :: src :: data) t0 t1 old s.rxbuf)
  (hna : ¬ (dest = s.xSelf ∧ src = s.xPeer ∧ data = s.cfg.ackTag ∧ dest ≠ s.cfg.broadcastAddr))
  (hl : data.length + 2 ≤ s.cfg.maxLen)
include h hna hl

/-- Any other record fills the packet registers, and the selector decides whether it is answered (R122, R127). -/
theorem classify_data : classify s =
    if autoReply (s.reported dest src data t0 t1) then autoAck (s.reported dest src data t0 t1)
    else .ok (finish true .data (s.reported dest src data t0 t1)) := by
  have ⟨hlen, _⟩ := h
  have hack : ¬ isAck s.xSelf s.xPeer s = true := by
    rw [h.isAck_iff]
    rintro ⟨hp, hne⟩
    simp only [List.cons.injEq] at hp
    obtain ⟨rfl, rfl, rfl⟩ := hp
    exact hna ⟨rfl, rfl, rfl, hne⟩
  have hfits : (s.headTaken.byteAt .rxbuf 0).toNat ≤ s.headTaken.cfg.maxLen := hlen.trans_le hl
  rw [classify_eq, if_neg hack, takeTrailer_ok hfits, except_bind_ok, h.headTaken,
    RecordRead.trailerTaken (s := { s with rLen := _, rDest := dest, rSrc := src }) h]
  rfl

theorem classify_broadcast (hb : dest = s.cfg.broadcastAddr) :
    classify s = .ok (finish true .data (s.reported dest src data t0 t1)) := by
  have ⟨_, hdata, _⟩ := h
  have hdest : (s.reported dest src data t0 t1).byteAt .rxbuf 1 = dest := hdata 0 (by simp)
  rw [classify_data h hna hl, if_neg fun ha => autoReply_iff.1 ha (hdest.trans hb)]

/-- The reply goes to the recorded source in the name of the recorded destination (R128). -/
theorem classify_reply (hw : s.cfg.wf = true) (hb : dest ≠ s.cfg.broadcastAddr) :
    classify s = .ok { s.reported dest src data t0 t1 with
      txbuf := Mem.writeBytes s.txbuf 0 (ackFrame s.cfg src dest), ctx := .autoAck, fsm := .txLoad } := by
  have ⟨_, hdata, _⟩ := h
  have hdest : (s.reported dest src data t0 t1).byteAt .rxbuf 1 = dest := hdata 0 (by simp)
  have hsrc : (s.reported dest src data t0 t1).byteAt .rxbuf 2 = src := hdata 1 (by simp)
  rw [classify_data h hna hl, if_pos (autoReply_iff.2 (hdest.trans_ne hb)),
    autoAck_inside (s := s.reported dest src data t0 t1) hw, hdest, hsrc]
  rfl

end

end

/-- Settles O37: the record is stored, and its length byte alone decides. -/
theorem recvHandleRejectsShortFrames : Obligations.RecvHandleRejectsShortFrames := by
  intro s payload rest t0 t1 b tail hi hr hf hc hl hfifo ho hn hs
  obtain ⟨hm, -⟩ := hi.rxForm
  obtain ⟨-, hfit, -⟩ := Params.wf_iff.1 hi.params
  have hrec := recordRead_writeBytes (t0 := t0) (t1 := t1) hm (hl.trans (by decide))
  have hcode : raiseRxCode s.cfg.linkLayer s.cmdw (if payload = [] then .empty else .short) = .badFrame :=
    ((hi.runningAt hf).1.raiseRxCode_eq (by rw [hc]; rfl) (by split <;> simp)).trans (by rw [hc]; rfl)
  refine ⟨_, hrec, reaches_of_read hi hr hf (by omega) hfifo ho hn hs ?_⟩
  exact (dispatch_recvHandle_short (s := s.recordStored ..) hc rfl hrec hl).trans
    (congrArg _ (raiseError_eq_of_code hcode))

/-- Settles O38: the record is the expected ACK. -/
theorem recvHandleReportsAck : Obligations.RecvHandleReportsAck := by
  intro s rest t0 t1 b tail hi hr hf hc hne hfifo ho hn hs
  obtain ⟨hm, -⟩ := hi.rxForm
  obtain ⟨-, hfit, hmax, -⟩ := Params.wf_iff.1 hi.params
  have hl : (s.xSelf :: s.xPeer :: s.cfg.ackTag).length ≤ s.cfg.maxLen := (Nat.add_comm _ 2).trans_le hfit
  have hrec := recordRead_writeBytes (t0 := t0) (t1 := t1) hm (hl.trans hmax)
  refine ⟨_, hrec, reaches_of_read hi hr hf hl hfifo ho hn hs ?_⟩
  rw [Nat.add_comm 2]
  exact (dispatch_recvHandle_addressed (s := s.recordStored ..) hc rfl hrec).trans
    (classify_ack (s := s.recordStored ..) hrec hne)

/-- Settles O39: the record is classified as Data; a reply is a transmit that ends in Data, whatever `TX_GO` answers. -/
theorem recvHandleDeliversData : Obligations.RecvHandleDeliversData := by
  intro s dest src data rest t0 t1 b sent tail hi hr hf hc hna hl hfifo ho hn ended
  obtain ⟨hm, -⟩ := hi.rxForm
  obtain ⟨-, htag, hmax, -⟩ := Params.wf_iff.1 hi.params
  have hrec := recordRead_writeBytes (payload := dest :: src :: data) (t0 := t0) (t1 := t1) hm (hl.trans hmax)
  have hclassify (es : List Event) : dispatch (s.recordStored b (dest :: src :: data) t0 t1 rest es) =
      classify (s.recordStored b (dest :: src :: data) t0 t1 rest es) := dispatch_recvHandle_addressed hc rfl hrec
  refine ⟨fun hb hs => ⟨_, hrec, ?broadcast⟩, fun hb hs => ?reply⟩
  case broadcast =>
    exact reaches_of_read (payload := dest :: src :: data) hi hr hf hl hfifo ho hn hs
      ((hclassify _).trans (classify_broadcast hrec hna hl hb))
  case reply =>
    have hbuilt := ackBuilt_writeBytes (p := s.cfg) (self := dest) (peer := src) hi.txForm.1
      ((Nat.add_comm _ 2).trans_le (htag.trans hmax))
    have hread := reaches_of_read (payload := dest :: src :: data) hi hr hf hl hfifo ho hn hs
      ((hclassify _).trans (classify_reply hrec hna hl hi.params hb))
    refine ⟨_, _, { s.chip with rxFifo := rest, txFifo := [], mode := .receive }, hrec, hbuilt, rfl, rfl,
      reaches_trans hread (reaches_of_transmit (sent := sent) (es := tail) hr rfl ?len rfl ?ends)⟩
    case len =>
      obtain ⟨hlen, -⟩ := hbuilt
      exact hlen.trans_le htag
    case ends =>
      refine (afterTransmit_autoAck rfl).trans (congrArg _ ?_)
      rw [← hbuilt.readBytes]
      cases sent <;> rfl

end Sys2Proof.Machine

namespace Sys2Proof.Machine

/-! # The first record of the ACK wait (41_link.md R124, R130, 60_exceptions.md R185 to R187, R190) -/

section
variable {s u : State} {e : ErrCode}

theorem dispatch_acked (hc : s.ctx = .sendPacket) (hr : s.rdres = .ok) (ha : isAck s.xSelf s.xPeer s = true) :
    dispatch s = .ok (finish true .ack s) := by simp [dispatch, hc, dispatchSendPacket, hr, ha]

/-- A record that is not the awaited ACK is dropped, and receive mode resumed before the attempt fails (R187). -/
theorem dispatch_notAcked (hc : s.ctx = .sendPacket) (hr : s.rdres = .ok) (ha : ¬ isAck s.xSelf s.xPeer s = true) :
    dispatch s = .ok { s with err := { s.err with att := .badAck }, rdres := .badAck, fsm := .rdRxgo } := by
  simp [dispatch, hc, dispatchSendPacket, hr, ha]

/-- The cause of a bad ACK has been recorded before `RX_GO`. -/
theorem dispatch_badAck (hc : s.ctx = .sendPacket) (hr : s.rdres = .badAck) (he : s.err.att = .badAck) :
    dispatch s = failAttempt .badAck s := by
  have hs : { s with err := { s.err with att := .badAck } } = s := by rw [← he]
  rw [failAttempt, hs]
  simp [dispatch, hc, dispatchSendPacket, hr]

/-- A read that gives no record fails the attempt with its own cause (R124). -/
theorem dispatch_waitFailed (hc : s.ctx = .sendPacket) (he : s.rdres.cause = some e) :
    dispatch s = failAttempt e s := by
  cases hr : s.rdres
  case empty | overflow | oversize =>
    rw [hr] at he
    cases he
    simp [dispatch, dispatchSendPacket, hc, hr]
  case none | ok | badAck => simp [hr, RdRes.cause] at he

/-- A read has led from `s` to `u`, and the attempt has not been counted yet: of what an attempt is told by, only the
cause may have been recorded. -/
def State.SameAttempt (s u : State) : Prop :=
  u = { s with
    rxbuf := u.rxbuf, fsm := u.fsm, rdres := u.rdres, err := { s.err with att := u.err.att }, chip := u.chip,
    script := u.script, now := u.now, trace := u.trace }

/-- The attempt in progress in `s` has failed with `e`, on what the read has left in `u`. -/
structure State.FailedOn (e : ErrCode) (s u t : State) : Prop where
  attempt : s.AttemptFailed e t
  rdres : t.rdres = u.rdres
  rxbuf : t.rxbuf = u.rxbuf
  chip : t.chip = u.chip
  txres : t.txres = s.txres
  script : t.script = u.script
  trace : t.trace = u.trace

/-- The attempt that fails after a read is the one in progress before it. -/
theorem State.SameAttempt.failAttempt (h : s.SameAttempt u) (e : ErrCode) (hr : u.Running) (hc : s.ctx = .sendPacket) :
    ∃ t, failAttempt e u = .ok t ∧ s.FailedOn e u t := by
  have hctx : u.ctx = .sendPacket := by rw [h, hc]
  have htxres : u.txres = s.txres := by rw [h]
  obtain ⟨t, ht, hfailed, hframe⟩ := failAttempt_next e hr hctx
  refine ⟨t, ht, ?attempt, ?rdres, ?rxbuf, ?chip, ?txres, ?script, ?trace⟩
  case attempt =>
    rw [h] at hfailed
    exact hfailed
  case txres => rw [← htxres, hframe]
  all_goals rw [hframe]

/-- What a read has found wrong is flushed, and the attempt fails with its cause. -/
theorem State.SameAttempt.reaches_of_flushed {es : List Event} (h : s.SameAttempt u) (hr : u.Running)
    (hc : s.ctx = .sendPacket) (hf : u.fsm = .rdFlush) (he : u.rdres.cause = some e)
    (hs : u.script = .answer .done :: .answer .done :: es) :
    ∃ t, reaches 2 u t ∧ s.FailedOn e (u.flushed es) t := by
  have hctx : u.ctx = .sendPacket := by rw [h, hc]
  have hsame : s.SameAttempt (u.flushed es) := by
    unfold State.SameAttempt
    rw [h]
    rfl
  obtain ⟨t, ht, hfailed⟩ := hsame.failAttempt e hr hc
  exact ⟨t, reaches_of_flush hr.released hf hs ((dispatch_waitFailed (s := u.flushed es) hctx he).trans ht), hfailed⟩

/-- After a bad ACK receive mode is resumed, and the attempt fails. -/
theorem State.SameAttempt.reaches_of_badAck {es : List Event} (h : s.SameAttempt u) (hr : u.Running)
    (hc : s.ctx = .sendPacket) (hf : u.fsm = .rdRxgo) (hres : u.rdres = .badAck) (he : u.err.att = .badAck)
    (hs : u.script = .answer .done :: es) :
    ∃ t, reaches 1 u t ∧ s.FailedOn .badAck (u.answered .rxGo .ok { u.chip with mode := .receive } es) t := by
  have hctx : u.ctx = .sendPacket := by rw [h, hc]
  have hq : currentRequest u = .ok (some .rxGo) := by simp [currentRequest, hf]
  have hsame : s.SameAttempt (u.answered .rxGo .ok { u.chip with mode := .receive } es) := by
    unfold State.SameAttempt
    rw [h]
    rfl
  obtain ⟨t, ht, hfailed⟩ := hsame.failAttempt .badAck hr hc
  have hrow : onResponse .ok (u.answered .rxGo .ok { u.chip with mode := .receive } es) = _ :=
    (onResponse_rdRxgo (s := u.answered ..) hf).trans (dispatch_badAck (s := u.answered ..) hctx hres he)
  exact ⟨t, reaches_one (step_answer hr.released hs hq rfl (hrow.trans ht)), hfailed⟩

end

/-- Settles O40: the record is the awaited ACK. -/
theorem awaitedAckEndsTheCommand : Obligations.AwaitedAckEndsTheCommand := by
  intro s rest t0 t1 b tail hi hr hf hc hne hfifo ho hn hs
  obtain ⟨hm, -⟩ := hi.rxForm
  obtain ⟨-, hfit, hmax, -⟩ := Params.wf_iff.1 hi.params
  have hl : (s.xSelf :: s.xPeer :: s.cfg.ackTag).length ≤ s.cfg.maxLen := (Nat.add_comm _ 2).trans_le hfit
  have hrec := recordRead_writeBytes (t0 := t0) (t1 := t1) hm (hl.trans hmax)
  refine ⟨_, hrec, reaches_of_read hi hr hf hl hfifo ho hn hs ?_⟩
  exact dispatch_acked hc rfl ((RecordRead.isAck_iff (s := s.recordStored ..) hrec).2 ⟨rfl, hne⟩)

theorem replicate_readAnswers (payload : List Byte) (e : Event) (es : List Event) :
    List.replicate (readAnswers payload) e ++ es = List.replicate (readAnswers payload - 1) e ++ e :: es := by
  cases payload <;> rfl

/-- Settles O41: the read ends the wait by its outcome, and each but the awaited ACK leads to `failAttempt`. -/
theorem firstRecordEndsTheWait : Obligations.FirstRecordEndsTheWait := by
  intro s rest b tail hi hr hf hc flushed
  obtain ⟨hrun, -⟩ := hi.runningAt hf
  obtain ⟨hm, -⟩ := hi.rxForm
  obtain ⟨-, -, hmax, -⟩ := Params.wf_iff.1 hi.params
  refine ⟨fun payload t0 t1 hl hfifo hna ho hn hs => ?badAck, fun ho hn hs => ?empty, fun ho hs => ?overflow,
    fun len more ho hn hfifo hl hs => ?oversized⟩
  case badAck =>
    have hrec := recordRead_writeBytes (t0 := t0) (t1 := t1) hm (hl.trans hmax)
    have hnack : ¬ isAck s.xSelf s.xPeer (s.recordStored b payload t0 t1 rest (.answer .done :: tail)) = true := by
      rw [RecordRead.isAck_iff (s := s.recordStored ..) hrec]
      exact fun ⟨hp, hne⟩ => hna.elim (· hp) hne
    have hstored : (s.recordStored b payload t0 t1 rest (.answer .done :: tail)).Running := hrun.recordStored hl
    rw [replicate_readAnswers] at hs
    have hread := reaches_of_read hi hr hf hl hfifo ho hn hs (dispatch_notAcked hc rfl hnack)
    obtain ⟨t, ht, h⟩ := State.SameAttempt.reaches_of_badAck (s := s)
      (u := { s.recordStored b payload t0 t1 rest (.answer .done :: tail) with
        err := { s.err with att := .badAck }, rdres := .badAck, fsm := .rdRxgo })
      rfl hstored hc rfl rfl rfl rfl
    rw [Nat.add_comm]
    exact ⟨t, reaches_trans hread ht, h.attempt, h.rdres, h.chip, h.rxbuf ▸ hrec, h.txres, h.script, h.trace⟩
  case empty =>
    obtain ⟨t, ht, h⟩ := State.SameAttempt.failAttempt (s := s)
      (u := { s.answered .rxStatus (.byte b) s.chip tail with rdres := .empty }) rfl .empty hrun hc
    have hstatus := (onStatus_waitEmpty (s := s.answered .rxStatus (.byte b) s.chip tail) ho hn hc).trans ht
    exact ⟨t, reaches_one (step_status hr hf hs hstatus), h.attempt, h.rdres, h.rxbuf, h.chip, h.txres, h.script,
      h.trace⟩
  case overflow =>
    obtain ⟨t, ht, h⟩ := State.SameAttempt.reaches_of_flushed (s := s)
      (u := { s.answered .rxStatus (.byte b) s.chip _ with rdres := .overflow, fsm := .rdFlush })
      rfl hrun hc rfl rfl rfl
    exact ⟨t, reaches_of_step (step_status hr hf hs (onStatus_overflow ho)) ht, h.attempt, h.rdres, h.rxbuf, h.chip,
      h.txres, h.script, h.trace.trans (by simp [State.flushed, State.answered])⟩
  case oversized =>
    obtain ⟨t, ht, h⟩ := State.SameAttempt.reaches_of_flushed (s := s)
      (u := { s.lengthPopped b len more _ with
        rxbuf := Mem.writeBytes s.rxbuf 0 [len], rdres := .oversize, fsm := .rdFlush })
      rfl (hrun.rxWritten (by simp)) hc rfl rfl rfl
    have hlength := onLength_oversize (s := s.lengthPopped b len more (.answer .done :: .answer .done :: tail)) hl
    refine ⟨t, reaches_of_length hr hf ho hn hfifo hs hlength ht, h.attempt, h.rdres, h.chip, h.txres, h.script,
      fun i => ?_, h.trace.trans (by simp [State.flushed, State.lengthPopped])⟩
    rw [h.rxbuf]
    exact Mem.read_writeFrom len hm

end Sys2Proof.Machine

namespace Sys2Proof.Machine

/-! # The system commands (42_system.md)

## A step runs the decoded instruction (42_system.md R155, 43_sequencer.md R165, R169) -/

section
variable {s t : State} {c : Code} {i : Instr}

theorem step_code (he : s.nextEvent = .code c) (hd : decode s.cfg c = .ok i) :
    step s = s.settle (exec i s.advance) := congrArg s.settle (react_code he hd)

/-- No poll follows an instruction that ends outside `S_ACK_POLL`. -/
theorem step_code_left (he : s.nextEvent = .code c) (hd : decode s.cfg c = .ok i) (hx : exec i s.advance = .next t)
    (hf : t.fsm ≠ .ackPoll) : step s = .next t := by
  rw [step_code he hd, hx, settle_next, thenPoll_left (.inr hf)]

end

/-- Settles O49: the bits that a step takes are those of its event, and `withFetchWord` makes the row's bits that
event. -/
theorem stepRunsTheDecodedInstruction : Obligations.StepRunsTheDecodedInstruction := by
  refine ⟨fun s c i he hd => ?event, fun s nbits w i hd => ?row⟩
  case event => exact ⟨step_code he hd, fun hf => (step_code he hd).trans (settle_other hf)⟩
  case row =>
    have hstep : step (s.withFetchWord nbits w) = s.settle (exec i { s with now := s.now + 1 }) :=
      step_code (s := s.withFetchWord nbits w) rfl hd
    exact ⟨hstep, fun hf => hstep.trans (settle_other hf)⟩

/-! ## The two ends of a command (R157, 60_exceptions.md R197) -/

theorem raiseRxCode_eq_ite (link : Bool) (w : CmdWord) (e : ErrCode) : raiseRxCode link w e =
    if link = true ∧ cwOp w = 0x05#8 then (if e = .busTimeout then .timeout else .badFrame) else .ack := by
  unfold raiseRxCode
  simp only [Bool.and_eq_true, beq_iff_eq]
  cases e <;> rfl

theorem pairReached_none {f : Fsm} (h : pairReached f .none = true) : f = .idle := by
  cases f
  case idle => rfl
  all_goals simp [pairReached] at h

/-- Every `CTX` of a command in progress stands for a command of R71. -/
theorem State.Inv.opcode_of_busy {s : State} (hi : s.Inv) (hb : s.status.busy = true) :
    ∃ op, s.ctx.opcode = some op := by
  cases hc : s.ctx
  case none => exact absurd (pairReached_none (hc ▸ hi.pair)) (hi.busy.1 hb)
  all_goals exact ⟨_, rfl⟩

/-- The opcode of `RECV_HANDLE` belongs to it and to its auto-reply. -/
theorem Ctx.opcode_eq_recvHandle_iff {c : Ctx} : c.opcode = some 0x05#8 ↔ c = .recvHandle ∨ c = .autoAck := by
  cases c <;> simp [Ctx.opcode]

/-- Settles O20: both ends are their definitions, and `CMDW` holds the opcode of the command that `CTX` stands for. -/
theorem finishAndRaiseEndTheCommand : Obligations.FinishAndRaiseEndTheCommand := by
  refine ⟨fun _ _ _ => rfl, fun e s => raiseError_eq_of_code (raiseRxCode_eq_ite ..), fun s hi hb => ?_⟩
  obtain ⟨op, hop⟩ := hi.opcode_of_busy hb
  obtain ⟨hw, ha⟩ := hi.command op hop
  rw [hw, ← Ctx.opcode_eq_recvHandle_iff, hop, Option.some_inj]
  exact and_iff_right_of_imp fun h5 => linkLayer_of_opAssigned ha (.inr (.inr h5))

/-! ## `PKT_AVAIL` (R150, R151) -/

section
variable {u : BitVec 32} {s : State} (ha : s.canAccept = true)
include ha

theorem exec_pktAvail_polls : exec (.pktAvail u) s = .next { s.completed (wordPktAvail u) (pollReady s) with
    rxFlag := (pollTake s).rxFlag, trace := [.poll (pollReady s)] } := by
  refine begin_accepted (body := fun s => .ok (finish (poll s).1 .ack (poll s).2)) ha ?_
  rw [poll, pollTake_accept]
  rfl

theorem exec_pktAvail_level (hm : s.cfg.rxSignalMode = .level) :
    exec (.pktAvail u) s = .next { s.completed (wordPktAvail u) s.ports.dataReady with
      trace := [.poll s.ports.dataReady] } := by
  rw [exec_pktAvail_polls ha]
  simp [pollTake, pollReady, hm, State.completed]

theorem exec_pktAvail_counted (hm : s.cfg.rxSignalMode = .edge) (hf : 0 < s.rxFlag) :
    exec (.pktAvail u) s = .next { s.completed (wordPktAvail u) true with
      rxFlag := s.rxFlag - 1, trace := [.poll true] } := by
  rw [exec_pktAvail_polls ha]
  simp [pollTake, pollReady, hm, hf]

theorem exec_pktAvail_none (hm : s.cfg.rxSignalMode = .edge) (hf : s.rxFlag = 0) :
    exec (.pktAvail u) s = .next { s.completed (wordPktAvail u) false with trace := [.poll false] } := by
  rw [exec_pktAvail_polls ha]
  simp [pollTake, pollReady, hm, hf, State.completed]

end

/-- Settles O23: the result and the count are those of the poll; the second of two `PKT_AVAIL` finds the count taken. -/
theorem pktAvailPolls : Obligations.PktAvailPolls := by
  refine fun u s ha => ⟨exec_pktAvail_level ha, exec_pktAvail_counted ha, exec_pktAvail_none ha, fun hm hf => ?_⟩
  have ha' : ({ s.completed (wordPktAvail u) true with rxFlag := s.rxFlag - 1, trace := [.poll true] }).canAccept =
      true := canAccept_iff.2 ⟨(canAccept_iff.1 ha).1, rfl⟩
  exact ⟨_, _, exec_pktAvail_counted ha hm (by simp [hf]), exec_pktAvail_none ha' hm (by simp [hf]), rfl, rfl⟩

/-! ## The data-ready edge (R152, 70_reset_and_hazards.md R212) -/

section
variable {s : State}

theorem setDataReady_rise (hd : s.ports.dataReady = false) (hr : s.ports.rst = false) :
    setDataReady true s = { s with
      ports := { s.ports with dataReady := true }
      rxFlag := min (s.rxFlag + 1) s.cfg.rxFlagDepth
      trace := s.trace ++ [.edge] } := by
  simp [setDataReady, hd, hr, dataReadyEdge, State.log]

theorem setDataReady_noEdge {b : Bool} (h : b = false ∨ s.ports.dataReady = true ∨ s.ports.rst = true) :
    setDataReady b s = { s with ports := { s.ports with dataReady := b } } := by
  obtain rfl | h | h := h <;> simp [setDataReady, *]

end

/-- Settles O24: the event's effect is `setDataReady`, at a rise and otherwise. -/
theorem dataReadyEdgeSaturates : Obligations.DataReadyEdgeSaturates := by
  refine fun s b he => ⟨fun ⟨hb, hd, hr⟩ => ?rise, fun h => ?noEdge⟩
  case rise =>
    subst hb
    rw [step_of_react (react_dataReady he), setDataReady_rise (s := s.advance) hd hr]
    rfl
  case noEdge =>
    rw [step_of_react (react_dataReady he), setDataReady_noEdge (s := s.advance) h]
    rfl

/-! ## `SET_ADDR` (R153) -/

section
variable {s t : State} {a : Byte} {u : BitVec 24} {es : List Event}

/-- 43_sequencer.md R166 row 7. -/
theorem exec_setAddr_starts (ha : s.canAccept = true) (hi : s.ports.initOk = true) :
    exec (.setAddr a u) s = .next (s.started (wordSetAddr a u) .setAddr .addrWr) :=
  begin_accepted ha (requireReady_ready (s := accept _ s) hi)

theorem onResponse_addrWr (hf : s.fsm = .addrWr) :
    onResponse .ok s = .ok (finish true .ack { s with ownAddr := cwA s.cmdw }) := by
  simp [onResponse, hf]

/-- `SET_ADDR` is accepted, and the radio agent answers its one request. -/
theorem reaches_of_setAddr {r : Reply} {resp : Response} {c : Chip} (ha : s.canAccept = true)
    (hi : s.ports.initOk = true) (he : s.script = .code (.word (wordSetAddr a u)) :: .answer r :: es)
    (hc : s.chip.respond (s.now + 2) (.addrWrite a) r = some (resp, c))
    (ht : onResponse resp (((s.past (.answer r :: es)).started (wordSetAddr a u) .setAddr .addrWr).answered
      (.addrWrite a) resp c es) = .ok t) : reaches 2 s t := by
  have hd : decode s.cfg (.word (wordSetAddr a u)) = .ok (.setAddr a u) :=
    congrArg Except.ok (decodeWord_of_encode (p := s.cfg) rfl rfl)
  have hstart : step s = .next ((s.past (.answer r :: es)).started (wordSetAddr a u) .setAddr .addrWr) := by
    refine step_code_left (nextEvent_cons s he) hd ?_ (by simp [State.started])
    rw [advance_eq_past he]
    exact exec_setAddr_starts ha hi
  refine reaches_of_step hstart (reaches_one (step_answer (canAccept_iff.1 ha).1 rfl ?_ hc ht))
  simp [currentRequest, State.started]

end

/-- Settles O29: the accepting step, and the answer to the one request: only its `OK` writes `OWN_ADDR`. -/
theorem setAddrWritesThrough : Obligations.SetAddrWritesThrough := by
  refine fun a u s ha => ⟨fun hi => ?refused, fun hi => ⟨exec_setAddr_starts ha hi, fun tail he => ?ok,
    fun tail he => ⟨Config.freeChip (s.now + 2), ?busTimeout⟩⟩⟩
  case refused =>
    obtain ⟨hrefused, -⟩ := refusedCommandsChangeNothing s ha
    obtain ⟨-, -, hsetAddr, -⟩ := hrefused hi
    exact hsetAddr a u
  case ok =>
    refine reaches_of_setAddr ha hi he rfl ((onResponse_addrWr rfl).trans ?_)
    simp [finish, State.answered, State.started, State.past, State.completed]
  case busTimeout =>
    refine reaches_of_setAddr ha hi he (respond_busTimeout ..) (congrArg Except.ok (raiseError_eq_of_code ?_))
    exact raiseRxCode_other (w := wordSetAddr a u) _ (.inr (by simp))

/-! ## Acceptance (R155, R156) -/

/-- A command that makes a request and is not refused is in progress when it has been accepted. -/
theorem exec_busy_of_transfers {i : Instr} {s : State} (hi : s.Inv) (ha : s.canAccept = true)
    (hx : transfers i s = true) : ∃ t, exec i s = .next t ∧ t.status.busy = true := by
  obtain ⟨hm, -⟩ := hi.txForm
  obtain ⟨hr, hx⟩ := (Bool.and_eq_true ..).mp hx
  obtain ⟨hrecvData, hrecvHandle⟩ := receiveCommandsStart s ha hr
  cases i with
  | sendData n u =>
    obtain ⟨m, h, -⟩ := sendDataStarts n u s ha hr hm (of_decide_eq_true hx)
    exact ⟨_, h, rfl⟩
  | sendPacket self dest retries n =>
    obtain ⟨hl, hn⟩ := (Bool.and_eq_true ..).mp hx
    obtain ⟨m, h, -⟩ := sendPacketStarts self dest retries n s ha hr hl hi.params hm (of_decide_eq_true hn)
    exact ⟨_, h, rfl⟩
  | sendAck self peer u =>
    obtain ⟨m, h, -⟩ := sendAckStarts self peer u s ha hr hx hi.params hm
    exact ⟨_, h, rfl⟩
  | recvData u => exact ⟨_, hrecvData u, rfl⟩
  | recvHandle self peer u => exact ⟨_, hrecvHandle hx self peer u, rfl⟩
  | setAddr a u => exact ⟨_, exec_setAddr_starts ha hr, rfl⟩
  | pktAvail | wrPay | rdRx | illegal | frameRaw | frameAddressed | frameAck | record | rxStatusByte => cases hx

/-- What an accepting step leaves of the command `w`: it has been sampled, and is in progress with its results clear
exactly if it `goesOn`, or else has ended. -/
structure State.AcceptedAs (w : CmdWord) (goesOn : Bool) (t : State) : Prop where
  cmdw : t.cmdw = w
  att : t.err.att = .none
  busy : t.status.busy = goesOn
  clear : goesOn = true → t.ResultsClear
  done : goesOn = false → t.status.done = true

section
variable {i : Instr} {w : CmdWord} {s t : State}

theorem started_acceptedAs (w : CmdWord) (c : Ctx) (f : Fsm) (s : State) : (s.started w c f).AcceptedAs w true :=
  ⟨rfl, rfl, rfl, fun _ => ⟨rfl, rfl, rfl, rfl⟩, nofun⟩

theorem acceptedAs_of_ended (hw : t.cmdw = w) (ha : t.err.att = .none) (hb : t.status.busy = false)
    (hd : t.status.done = true) : t.AcceptedAs w false := ⟨hw, ha, hb, nofun, fun _ => hd⟩

/-- A command that is accepted is begun, refused, or ended in its accepting step. -/
theorem ExecRow.acceptedAs (h : ExecRow s i t) (ha : s.canAccept = true) (hw : encode s.cfg i = .word w)
    (hx : transfers i s = true → t.status.busy = true) : t.AcceptedAs w (transfers i s) := by
  cases h with
  | ignored hna => simp [hna] at ha
  | refused _ hw' e =>
    obtain rfl := Code.word.inj (hw.symm.trans hw')
    have hnx : transfers i s = false := Bool.eq_false_of_not_eq_true fun h => Bool.false_ne_true (hx h)
    rw [hnx]
    exact acceptedAs_of_ended rfl rfl rfl rfl
  | sendData _ hr hn | sendPacket _ hr hl hn | sendAck _ hr hl | recvData _ hr | recvHandle _ hr hl | setAddr _ hr =>
    cases hw
    simp [transfers, *, started_acceptedAs]
  | pktAvail | wrPay | rdRx =>
    cases hw
    simp only [transfers, Bool.and_false]
    exact acceptedAs_of_ended rfl rfl rfl rfl
  | received hb => simp [hb] at hw
  | statusAnswered | statusUnasked => cases hw

end

/-- Settles O17: a command that cannot be accepted is ignored; one that can runs its row, from `S_IDLE`, so that no poll
follows. -/
theorem acceptanceSamplesTheCommand : Obligations.AcceptanceSamplesTheCommand := by
  intro s w hi he
  have hstep : step s = s.settle (exec (decodeWord s.cfg.linkLayer w) s.advance) := step_code he rfl
  refine ⟨canAccept_iff, fun hna => ?ignored, fun ha => ?accepted⟩
  case ignored => rw [hstep, exec_decodeWord_ignores (s := s.advance) hna, settle_next]
  case accepted =>
    have hi' : s.advance.Inv := hi.sameBlock rfl hi.held hi.flagBound
    obtain ⟨t, ht⟩ := exec_next hi' (decodeWord s.cfg.linkLayer w)
    obtain ⟨hcmdw, hatt, hbusy, hclear, hdone⟩ : t.AcceptedAs w (transfers (decodeWord s.cfg.linkLayer w) s) := by
      refine (exec_row ht).acceptedAs ha (encode_decodeWord ..) fun hx => ?_
      obtain ⟨u, hu, hb⟩ := exec_busy_of_transfers hi' ha hx
      cases ht.symm.trans hu
      exact hb
    rw [← hbusy] at hclear hdone
    have hf : s.fsm ≠ .ackPoll := by simp [hi.idle_of_canAccept ha]
    exact ⟨t, by rw [hstep, settle_other hf, ht], ht, hcmdw, hatt, by rw [hbusy], hclear, hdone⟩

end Sys2Proof.Machine

namespace Sys2Proof.Machine

/-! # What moves a command in progress (43_sequencer.md R169, R170) -/

/-- The event is the one thing that the state waits for: the radio agent's response, or a tick. `S_ACK_POLL` and `S_IDLE`
wait for nothing. -/
def State.WaitsFor (s : State) : Event → Prop
  | .answer .txUnderflow => s.fsm = .txGo
  | .answer .done | .answer .busTimeout => s.fsm.requests = true
  | .code (.status _) => s.fsm = .rdStatus
  | .tick => s.fsm = .ackTick ∨ s.fsm = .backoff
  | _ => False

section
variable {s t : State}

theorem awaits_iff {e : Event} (hr : s.ports.rst = false) (he : e ≠ .rst true) :
    s.awaits e = true ↔ s.fsm = .ackPoll ∨ s.WaitsFor e := by
  cases e with
  | code c => cases c <;> simp [State.awaits, State.WaitsFor, hr, or_comm]
  | answer r => cases r <;> simp [State.awaits, State.WaitsFor, hr, or_comm]
  | tick => simp [State.awaits, State.WaitsFor, hr, or_comm]
  | rst b =>
    cases b with
    | true => exact absurd rfl he
    | false => simp [State.awaits, State.WaitsFor, hr]
  | poll | initOk | dataReady | rxArrive | chipReset => simp [State.awaits, State.WaitsFor, hr]

theorem not_waitsFor_of_ackPoll (hf : s.fsm = .ackPoll) (e : Event) : ¬ s.WaitsFor e := by
  unfold State.WaitsFor
  split <;> simp [hf, Fsm.requests]

/-- A command in progress is not held in reset. -/
theorem State.Inv.running_of_busy (hi : s.Inv) (hb : s.status.busy = true) : s.Running :=
  hi.running (hi.busy.1 hb)

/-! ## The outstanding request -/

theorem currentRequest_isSome {q? : Option Request} (h : currentRequest s = .ok q?) :
    q?.isSome = s.fsm.requests := by
  cases hf : s.fsm <;> simp only [currentRequest, hf] at h
  case txLoad =>
    obtain ⟨_, -, rfl⟩ := except_map_eq_ok.1 h
    rfl
  all_goals
    cases h
    rfl

theorem currentRequest_txGo_iff : currentRequest s = .ok (some .txGo) ↔ s.fsm = .txGo := by
  cases hf : s.fsm <;> simp [currentRequest, hf, except_map_eq_ok]

/-- The radio agent has a response of this kind for the outstanding request (10_state.md R27). -/
theorem waitsFor_answer_iff {r : Reply} {now : Nat} {c : Chip} (hi : s.Inv) :
    s.WaitsFor (.answer r) ↔ ∃ q x, currentRequest s = .ok (some q) ∧ c.respond now q r = some x := by
  obtain ⟨q?, hq⟩ := currentRequest_ok hi
  have hsome := currentRequest_isSome hq
  cases r with
  | txUnderflow =>
    rw [State.WaitsFor, ← currentRequest_txGo_iff]
    constructor
    · intro h
      obtain ⟨x, hx⟩ := respond_txUnderflow_iff.2 rfl
      exact ⟨.txGo, x, h, hx⟩
    · rintro ⟨q, x, h, hx⟩
      rwa [respond_txUnderflow_iff.1 ⟨x, hx⟩] at h
  | done | busTimeout =>
    rw [State.WaitsFor, ← hsome, hq]
    cases q? with
    | none => simp
    | some q => cases q <;> simp [Chip.respond]

/-! ## Whatever is not awaited leaves the block -/

theorem ExecRow.sameBlock {i : Instr} (h : ExecRow s i t) (hb : s.status.busy = true)
    (hw : ¬ s.WaitsFor (.code (encode s.cfg i))) : s.SameBlock t ∧ t.rxFlag = s.rxFlag := by
  have hna : s.canAccept ≠ true := fun ha => by simp [(canAccept_iff.1 ha).2] at hb
  cases h with
  | ignored | received | statusUnasked => exact ⟨rfl, rfl⟩
  | statusAnswered _ hf => exact absurd hf hw
  | refused ha | sendData ha | sendPacket ha | sendAck ha | recvData ha | recvHandle ha | pktAvail ha | setAddr ha
  | wrPay ha | rdRx ha => exact absurd ha hna

theorem onAnswer_unawaited {r : Reply} (hi : s.Inv) (hw : ¬ s.WaitsFor (.answer r)) (h : onAnswer r s = .ok t) :
    t = s := by
  obtain rfl | ⟨q, resp, c, -, hq, hc, -⟩ := onAnswer_cases h
  · rfl
  · exact absurd ((waitsFor_answer_iff hi).2 ⟨q, _, hq, hc⟩) hw

theorem onTick_unawaited (hw : ¬ s.WaitsFor .tick) (h : onTick s = .ok t) : t = s := by
  obtain ⟨-, rfl⟩ | ⟨-, hf, -⟩ | ⟨-, hf, -⟩ | ⟨-, hf, -⟩ | ⟨-, hf, -⟩ := onTick_cases h
  · rfl
  · exact absurd (.inl hf) hw
  · exact absurd (.inl hf) hw
  · exact absurd (.inr hf) hw
  · exact absurd (.inr hf) hw

theorem setDataReady_sameBlock (b : Bool) (s : State) :
    s.SameBlock (setDataReady b s) ∧ ((setDataReady b s).rxFlag = s.rxFlag ∨ b = true) := by
  unfold setDataReady
  simp only
  split
  · next hrise =>
    simp only [Bool.and_eq_true] at hrise
    obtain ⟨⟨hb, -⟩, -⟩ := hrise
    exact ⟨rfl, .inr hb⟩
  · exact ⟨rfl, .inl rfl⟩

/-- R169: an event that the state does not wait for leaves the block, but for the count of an edge. -/
theorem react_sameBlock (hi : s.Inv) (hb : s.status.busy = true) (hw : ¬ s.WaitsFor s.nextEvent)
    (hne : s.nextEvent ≠ .rst true) (h : react s = .next t) :
    s.SameBlock t ∧ (t.rxFlag = s.rxFlag ∨ s.nextEvent = .dataReady true) := by
  have ha : s.advance.Inv := hi.sameBlock rfl hi.held hi.flagBound
  obtain ⟨c, i, he, hd, h⟩ | ⟨c, e, -, -, rfl⟩ | ⟨r, he, h⟩ | ⟨-, rfl⟩ | ⟨he, h⟩ | ⟨b, he, rfl⟩ | ⟨b, -, rfl⟩ |
    ⟨b, he, rfl⟩ | ⟨bs, o, -, rfl⟩ | ⟨-, rfl⟩ := react_cases h
  · rw [he, ← encode_of_decode hd] at hw
    obtain ⟨hblock, hflag⟩ := (exec_row h).sameBlock hb hw
    exact ⟨hblock, .inl hflag⟩
  · exact ⟨rfl, .inl rfl⟩
  · rw [he] at hw
    obtain rfl := onAnswer_unawaited ha hw h
    exact ⟨rfl, .inl rfl⟩
  · exact ⟨rfl, .inl rfl⟩
  · rw [he] at hw
    obtain rfl := onTick_unawaited (s := s.advance) hw h
    exact ⟨rfl, .inl rfl⟩
  · cases b with
    | true => exact absurd he hne
    | false => exact ⟨rfl, .inl rfl⟩
  · exact ⟨rfl, .inl rfl⟩
  · obtain ⟨hblock, hflag⟩ := setDataReady_sameBlock b s.advance
    exact ⟨hblock, hflag.imp_right fun hb => by rw [he, hb]⟩
  · exact ⟨rfl, .inl rfl⟩
  · exact ⟨rfl, .inl rfl⟩

end

/-- Settles O56: outside `S_ACK_POLL` no poll follows, and an event that the state does not wait for takes no row. -/
theorem unawaitedEventsLeaveTheBlock : Obligations.UnawaitedEventsLeaveTheBlock := by
  intro s t hi hb hw hne h
  rw [← Bool.not_eq_true, awaits_iff (hi.running_of_busy hb).released hne, not_or] at hw
  obtain ⟨hf, hw⟩ := hw
  rw [step_other hf] at h
  exact react_sameBlock hi hb hw hne h

/-! # What a command still owes (43_sequencer.md R170) -/

/-- The interactions that a `SEND_PACKET` owes at most after its attempt in progress. -/
def State.laterAttempts (s : State) : Nat :=
  match s.ctx with
  | .sendPacket => (s.budget - 1 - s.retryCnt.toNat) * (attemptCost s.cfg + s.cfg.backoffTicks)
  | _ => 0

/-- The interactions that a read still makes at most, by what the block does next (40_framer.md R94). -/
def Fsm.readSteps : Fsm → Nat
  | .rdStatus => 5
  | .rdLen => 4
  | .rdBody => 3
  | .rdTrailer | .rdFlush => 2
  | .rdRxgo => 1
  | _ => 0

/-- The command ends or has less to do. -/
def State.Shortens (s t : State) : Prop := t.status.busy = false ∨ t.remaining < s.remaining

section
variable {s t : State}

theorem remaining_eq (s : State) : s.remaining = s.phase + s.laterAttempts := rfl

/-- A read owes its steps, and in a `RECV_HANDLE` the reply that may follow. -/
theorem phase_of_read (h : 0 < s.fsm.readSteps) :
    s.phase = s.fsm.readSteps + if s.ctx = .recvHandle then 3 else 0 := by
  cases hf : s.fsm <;> simp only [hf, Fsm.readSteps, Nat.lt_irrefl] at h
  all_goals cases hc : s.ctx <;> simp [State.phase, Fsm.readSteps, hf, hc]

theorem phase_ackPoll (hf : s.fsm = .ackPoll) : s.phase = 2 * (s.cfg.ackTimeoutSteps - s.waitCnt) + 5 := by
  simp [State.phase, hf]

theorem phase_ackTick (hf : s.fsm = .ackTick) : s.phase = 2 * (s.cfg.ackTimeoutSteps - s.waitCnt) + 4 := by
  simp [State.phase, hf]

theorem phase_backoff (hf : s.fsm = .backoff) :
    s.phase = (s.cfg.backoffTicks - s.waitCnt) + attemptCost s.cfg := by
  simp [State.phase, hf]

theorem phase_pos (hf : s.fsm ≠ .idle) : 0 < s.phase := by
  cases hfsm : s.fsm with
  | idle => exact absurd hfsm hf
  | rdStatus | rdLen | rdBody | rdTrailer | rdFlush | rdRxgo =>
    rw [phase_of_read (by simp [hfsm, Fsm.readSteps]), hfsm]
    simp [Fsm.readSteps]
  | txLoad | txGo | txRxgo | ackPoll | ackTick | backoff | addrWr => simp [State.phase, hfsm, attemptCost]

theorem shortens_of_phase (hl : t.laterAttempts = s.laterAttempts) (hp : t.phase < s.phase) : s.Shortens t := by
  right
  rw [remaining_eq, remaining_eq, hl]
  omega

theorem shortens_of_read (hc : t.ctx = s.ctx) (hl : t.laterAttempts = s.laterAttempts) (ht : 0 < t.fsm.readSteps)
    (hlt : t.fsm.readSteps < s.fsm.readSteps) : s.Shortens t := by
  refine shortens_of_phase hl ?_
  rw [phase_of_read ht, phase_of_read (ht.trans hlt), hc]
  omega

/-! ## The rows of the transition table -/

/-- An attempt that starts owes a whole attempt. -/
theorem startAttempt_phase (h : startAttempt s = .ok t) (hc : s.ctx = .sendPacket) :
    t.phase = attemptCost s.cfg ∧ t.laterAttempts = s.laterAttempts := by
  obtain ⟨-, rfl⟩ := startAttempt_eq_ok h
  refine ⟨?_, rfl⟩
  simp [State.phase, attemptCost, hc]
  omega

/-- Counting a failed attempt takes one attempt and one backoff off those that are left. -/
theorem laterAttempts_counted (hr : s.Running) (hc : s.ctx = .sendPacket)
    (hlt : (s.retryCnt + 1).toNat < s.xMaxRetry.toNat) :
    { s with retryCnt := s.retryCnt + 1, waitCnt := 0 }.laterAttempts + (attemptCost s.cfg + s.cfg.backoffTicks) =
      s.laterAttempts := by
  have hsucc := hr.retryCnt_succ hc
  have hone : s.budget - 1 - (s.retryCnt + 1).toNat + 1 = s.budget - 1 - s.retryCnt.toNat := by
    rw [State.budget]
    omega
  simp only [State.laterAttempts, hc, ← hone, Nat.add_one_mul]
  rfl

/-- `RETRY` ends the command or leaves it the attempts after the one that has failed. -/
theorem retry_remaining (h : retry s = .ok t) (hr : s.Running) (hc : s.ctx = .sendPacket) :
    t.status.busy = false ∨ t.remaining = s.laterAttempts := by
  obtain ⟨hlt, -, rfl⟩ | ⟨hlt, hB, h⟩ | ⟨-, rfl⟩ := retry_cases h
  · right
    rw [← laterAttempts_counted hr hc hlt, remaining_eq, Nat.add_comm, Nat.add_comm (attemptCost _)]
    rfl
  · right
    obtain ⟨hp, hl⟩ := startAttempt_phase h hc
    rw [← laterAttempts_counted hr hc hlt, remaining_eq, hp, hl, hB, Nat.add_comm]
    rfl
  · exact .inl rfl

/-- An attempt that fails has owed something, whatever the row has done before it failed. -/
theorem retry_shortens {u : State} (h : retry u = .ok t) (hr : u.Running) (hc : u.ctx = .sendPacket)
    (hl : u.laterAttempts = s.laterAttempts) (hf : s.fsm ≠ .idle) : s.Shortens t := by
  refine (retry_remaining h hr hc).imp_right fun ht => ?_
  have hp := phase_pos hf
  rw [ht, hl, remaining_eq]
  omega

theorem TransmitRow.shortens (h : TransmitRow s t) (hr : s.Running) (hf : s.fsm = .txRxgo) : s.Shortens t := by
  have hne : s.fsm ≠ .idle := by simp [hf]
  cases h with
  | sent | underflow | autoAck | broadcast => exact .inl rfl
  | wait hc => exact shortens_of_phase rfl (by simp [State.phase, hf, hc])
  | noWait hc _ _ _ h =>
    exact retry_shortens (u := { s with waitCnt := 0, err := { s.err with att := .ackTimeout } }) h
      (hr.waiting (Nat.zero_le _)) hc rfl hne
  | failed hc _ h => exact retry_shortens h hr hc rfl hne

/-- A record that is no ACK has been read to its trailer, so the `RX_GO` that resumes reception is still owed. -/
theorem ReadRow.shortens (h : ReadRow s t) (hr : s.Running) (hp : 0 < s.fsm.readSteps)
    (hok : s.rdres = .ok → 1 < s.fsm.readSteps) : s.Shortens t := by
  have hne : s.fsm ≠ .idle := fun hf => by simp [hf, Fsm.readSteps] at hp
  cases h with
  | recvData | receiveFailed | handleEmpty | handleShort | handleAck | handleData | acked => exact .inl rfl
  | handleReply hc =>
    right
    change 3 < s.remaining
    rw [remaining_eq, phase_of_read hp, if_pos hc]
    omega
  | badAck _ hres => exact shortens_of_read rfl rfl Nat.one_pos (hok hres)
  | retried hc _ h => exact retry_shortens h hr hc rfl hne
  | @waitFailed _ e hc _ h =>
    exact retry_shortens (u := { s with err := { s.err with att := e } }) h hr hc rfl hne

theorem ResponseRow.shortens {r : Response} (h : ResponseRow s r t) (hi : s.Inv) : s.Shortens t := by
  cases h with
  | busTimeout | addrWr => exact .inl rfl
  | txLoad hf | txOk hf | txUnderflow hf => exact shortens_of_phase rfl (by simp [State.phase, hf])
  | txRxgo hf h => exact h.shortens (hi.runningAt hf).1 hf
  | rdFlush hf | overflow hf | available hf | oversize hf | noPayload hf | payload hf | rdBody hf =>
    exact shortens_of_read rfl rfl (by simp [Fsm.readSteps]) (by simp [hf, Fsm.readSteps])
  | rdRxgo hf h =>
    refine h.shortens (hi.runningAt hf).1 (by simp [hf, Fsm.readSteps]) fun hok => ?_
    simpa [hok] using hi.resumed hf
  | empty hf _ _ h =>
    exact h.shortens (hi.runningAt hf).1 (by simp [hf, Fsm.readSteps]) nofun
  | rdTrailer hf hl h =>
    exact h.shortens ((hi.runningAt hf).1.rxWritten (by simp; omega)) (by simp [hf, Fsm.readSteps])
      fun _ => by simp [hf, Fsm.readSteps]

/-! ## Events -/

theorem onAnswer_shortens {r : Reply} (hi : s.Inv) (hr : s.ports.rst = false) (hw : s.WaitsFor (.answer r))
    (h : onAnswer r s = .ok t) : s.Shortens t := by
  obtain ⟨q, ⟨resp, c⟩, hq, hc⟩ := (waitsFor_answer_iff (now := s.now) (c := s.chip) hi).1 hw
  rw [onAnswer_row hr hq hc] at h
  have hi' : ({ s with chip := c }.log (.request q resp)).Inv := hi.sameBlock rfl hi.held hi.flagBound
  exact (onResponse_row h).shortens hi'

theorem onTick_shortens (hi : s.Inv) (hr : s.ports.rst = false) (hw : s.WaitsFor .tick)
    (h : onTick s = .ok t) : s.Shortens t := by
  obtain ⟨hn, -⟩ | ⟨-, hf, hl, rfl⟩ | ⟨-, hf, -, h⟩ | ⟨-, hf, hl, rfl⟩ | ⟨-, hf, -, h⟩ := onTick_cases h
  · obtain hn | ⟨hn, hn'⟩ := hn
    · simp [hr] at hn
    · exact (hw.elim hn hn').elim
  · refine shortens_of_phase rfl ?_
    rw [phase_ackPoll rfl, phase_ackTick hf]
    change 2 * (s.cfg.ackTimeoutSteps - (s.waitCnt + 1)) + 5 < _
    omega
  · obtain ⟨hrun, hp⟩ := hi.runningAt hf
    exact retry_shortens
      (u := { s.log .tick with waitCnt := s.waitCnt + 1, err := { s.err with att := .ackTimeout } }) h
      (hrun.waiting (le_max_of_le_left (hi.ackWait (.inr hf)))) (eq_of_beq hp) rfl (by simp [hf])
  · have ht := phase_backoff (s := { s.log .tick with waitCnt := s.waitCnt + 1 }) hf
    refine shortens_of_phase rfl ?_
    rw [ht, phase_backoff hf]
    change s.cfg.backoffTicks - (s.waitCnt + 1) + attemptCost s.cfg < _
    omega
  · obtain ⟨hp, hl⟩ := startAttempt_phase h (eq_of_beq (hi.runningAt hf).2)
    have hwait := hi.backoffWait hf
    refine shortens_of_phase hl ?_
    rw [hp, phase_backoff hf]
    change attemptCost s.cfg < _
    omega

/-- The `RX_STATUS` byte answers as `RX_STATUS` does (30_encoding.md R66). -/
theorem exec_status_shortens {b : Byte} (hi : s.Inv) (hr : s.ports.rst = false) (hf : s.fsm = .rdStatus)
    (h : exec (decodeStatusByte b) s = .next t) : s.Shortens t := by
  rw [decodeStatusByte, exec_rxStatusByte, execRxStatusByte_asked hr hf] at h
  exact (onStatus_row (s := s.log _) hf (outcome_eq_next.1 h)).shortens (hi.sameBlock rfl hi.held hi.flagBound)

theorem react_shortens (hi : s.Inv) (hr : s.ports.rst = false) (hw : s.WaitsFor s.nextEvent)
    (h : react s = .next t) : s.Shortens t := by
  have ha : s.advance.Inv := hi.sameBlock rfl hi.held hi.flagBound
  cases he : s.nextEvent with
  | code c =>
    rw [he] at hw
    cases c with
    | status b =>
      rw [react_code he rfl] at h
      exact exec_status_shortens (s := s.advance) ha hr hw h
    | word | bytes => exact hw.elim
  | answer r =>
    rw [he] at hw
    rw [react_answer he, outcome_eq_next] at h
    exact onAnswer_shortens (s := s.advance) ha hr hw h
  | tick =>
    rw [he] at hw
    rw [react_tick he, outcome_eq_next] at h
    exact onTick_shortens (s := s.advance) ha hr hw h
  | poll | rst | initOk | dataReady | rxArrive | chipReset =>
    rw [he] at hw
    exact hw.elim

/-- The poll of the ACK wait (rows 18, 19): the read owes less than the wait, and so does the tick. -/
theorem thenPoll_shortens (hs : s.fsm = .ackPoll) (hi : t.Inv) (hf : t.fsm = .ackPoll) : t.Shortens (s.thenPoll t) := by
  obtain ⟨hr, hp⟩ := hi.runningAt hf
  have hc : t.ctx = .sendPacket := eq_of_beq hp
  have hwait := hi.ackWait (.inl hf)
  rw [thenPoll_ackPoll hs hr.released hf]
  refine shortens_of_phase rfl ?_
  rw [phase_ackPoll hf]
  split
  · rw [phase_of_read Nat.ofNat_pos]
    simp [Fsm.readSteps, hc, hwait]
  · rw [phase_ackTick rfl]
    exact Nat.lt_succ_self _

theorem State.SameBlock.remaining_eq (h : s.SameBlock t) : t.remaining = s.remaining := by rw [h]; rfl

theorem step_shortens (hi : s.Inv) (hb : s.status.busy = true) (hw : s.awaits s.nextEvent = true)
    (h : step s = .next t) : s.Shortens t := by
  have hr := (hi.running_of_busy hb).released
  have hne : s.nextEvent ≠ .rst true := fun he => by simp [State.awaits, he] at hw
  obtain ⟨u, hu, rfl⟩ := step_eq_next.1 h
  by_cases hf : s.fsm = .ackPoll
  · have hblock := (react_sameBlock hi hb (not_waitsFor_of_ackPoll hf _) hne hu).1
    have hpoll := thenPoll_shortens hf (react_inv hi hu) (by rw [hblock, hf])
    rwa [State.Shortens, hblock.remaining_eq] at hpoll
  · rw [thenPoll_other hf]
    exact react_shortens hi hr (((awaits_iff hr hne).1 hw).resolve_left hf) hu

end

/-- Settles O57: the rows go down the list of R170, `RETRY` takes an attempt and its backoff off those left, and the poll
of the ACK wait comes before its tick. -/
theorem awaitedEventsShortenTheCommand : Obligations.AwaitedEventsShortenTheCommand :=
  fun _ _ hi hb hw h => step_shortens hi hb hw h

/-! # Every command ends (43_sequencer.md R170, 20_memory.md R52) -/

/-- The command in progress ends in no run. -/
def State.NeverEnds (s : State) : Prop := ∀ k t, reaches k s t → t.status.busy = true

/-- Wherever a run leads, what the state there waits for comes at last. -/
def State.Served (s : State) : Prop := ∀ k t, reaches k s t → ∃ j u, reaches j t u ∧ u.awaits u.nextEvent = true

section
variable {s t : State} {k : Nat}

theorem reaches_inv (hi : s.Inv) (h : reaches k s t) : t.Inv := by
  induction k generalizing s with
  | zero =>
    obtain rfl := reaches_zero_iff.1 h
    exact hi
  | succ k ih =>
    obtain ⟨v, hv, h⟩ := reaches_succ_iff.1 h
    exact ih (step_inv hi hv) h

theorem State.NeverEnds.busy (h : s.NeverEnds) : s.status.busy = true := h 0 s (reaches_zero_iff.2 rfl)

theorem State.NeverEnds.of_reaches (h : s.NeverEnds) (ht : reaches k s t) : t.NeverEnds :=
  fun j u hu => h (j + k) u (reaches_trans ht hu)

theorem State.Served.of_reaches (h : s.Served) (ht : reaches k s t) : t.Served :=
  fun j u hu => h (j + k) u (reaches_trans ht hu)

theorem step_rst (he : s.nextEvent = .rst true) : step s = .next (resetBlock { s.advance with
    ports := { s.ports with rst := true } }) := by
  rw [step_of_react (react_rst he), thenPoll_left (.inl rfl)]
  rfl

/-- Under `rst` every command ends. -/
theorem State.NeverEnds.not_rst (h : s.NeverEnds) : s.nextEvent ≠ .rst true :=
  fun he => nomatch h 1 _ (reaches_one (step_rst he))

theorem State.NeverEnds.step_lt (h : s.NeverEnds) (hi : s.Inv) (hw : s.awaits s.nextEvent = true)
    (ht : step s = .next t) : t.remaining < s.remaining :=
  (step_shortens hi h.busy hw ht).resolve_left (by simp [h 1 t (reaches_one ht)])

/-- Nothing gives a command in progress more to do. -/
theorem State.NeverEnds.step_le (h : s.NeverEnds) (hi : s.Inv) (ht : step s = .next t) :
    t.remaining ≤ s.remaining := by
  cases hw : s.awaits s.nextEvent with
  | true => exact (h.step_lt hi hw ht).le
  | false => exact (unawaitedEventsLeaveTheBlock s t hi h.busy hw h.not_rst ht).1.remaining_eq.le

theorem State.NeverEnds.reaches_le (h : s.NeverEnds) (hi : s.Inv) (ht : reaches k s t) :
    t.remaining ≤ s.remaining := by
  induction k generalizing s with
  | zero => rw [reaches_zero_iff.1 ht]
  | succ k ih =>
    obtain ⟨v, hv, ht⟩ := reaches_succ_iff.1 ht
    exact (ih (h.of_reaches (reaches_one hv)) (step_inv hi hv) ht).trans (h.step_le hi hv)

/-- `BUS_RESPONDS` serves the states that issue a request, `TICKS_ARRIVE` those that wait for a tick, and `S_ACK_POLL`
serves itself. -/
theorem State.NeverEnds.served (h : s.NeverEnds) (hi : s.Inv) (hb : BusResponds s) (ht : TicksArrive s) :
    s.Served := by
  intro k t hk
  have hp : s.InProgress k := fun j u _ hu => h j u hu
  have hn := h.of_reaches hk
  have hrun := (reaches_inv hi hk).running_of_busy hn.busy
  cases hf : t.fsm with
  | idle => exact absurd hf ((reaches_inv hi hk).busy.1 hn.busy)
  | ackPoll =>
    exact ⟨0, t, reaches_zero_iff.2 rfl, (awaits_iff hrun.released hn.not_rst).2 (.inl hf)⟩
  | ackTick => exact ht k t hp hk (.inl hf)
  | backoff => exact ht k t hp hk (.inr hf)
  | txLoad | txGo | txRxgo | rdStatus | rdLen | rdBody | rdTrailer | rdFlush | rdRxgo | addrWr =>
    exact hb k t hp hk (by rw [hf]; rfl)

/-- A command that is served has always less to do, so it cannot go on for ever. -/
theorem State.Served.not_neverEnds {s : State} (hs : s.Served) (hi : s.Inv) : ¬ s.NeverEnds := by
  intro h
  obtain ⟨j, u, hu, hw⟩ := hs 0 s (reaches_zero_iff.2 rfl)
  have hiu := reaches_inv hi hu
  have hnu := h.of_reaches hu
  obtain ⟨v, hv⟩ := react_next hiu
  have hstep := step_of_react hv
  have hlt := (hnu.step_lt hiu hw hstep).trans_le (h.reaches_le hi hu)
  exact ((hs.of_reaches hu).of_reaches (reaches_one hstep)).not_neverEnds (step_inv hiu hstep)
    (hnu.of_reaches (reaches_one hstep))
termination_by s.remaining

end

/-- Settles O58: a command that never ended would be served for ever, and what it owes cannot shrink for ever. -/
theorem everyCommandEnds : Obligations.EveryCommandEnds := by
  intro s hi hb ht
  by_contra hn
  have h : s.NeverEnds := fun k t hk => by
    by_contra hbusy
    exact hn ⟨k, t, hk, Bool.eq_false_of_not_eq_true hbusy⟩
  exact (h.served hi hb ht).not_neverEnds hi h

end Sys2Proof.Machine

namespace Sys2Proof.Machine

/-! # Exceptions (60_exceptions.md)

## Nothing stops the machine (R180) -/

/-- Settles O52: every arm of `exec` and every event answers from a state that meets the invariant, and the poll that
may follow the event always answers. -/
theorem nothingStopsTheMachine : Obligations.NothingStopsTheMachine := by
  intro s hi
  obtain ⟨u, hu⟩ := react_next hi
  exact ⟨exec_next hi, s.thenPoll u, step_of_react hu⟩

/-! ## `BUS_TIMEOUT` (R181, R197) -/

section
variable {s : State}

/-- A state that issues a request has one outstanding. -/
theorem currentRequest_some (hi : s.Inv) (hf : s.fsm.requests = true) : ∃ q, currentRequest s = .ok (some q) := by
  obtain ⟨q?, hq⟩ := currentRequest_ok hi
  obtain ⟨q, rfl⟩ := Option.isSome_iff_exists.1 ((currentRequest_isSome hq).trans hf)
  exact ⟨q, hq⟩

/-- `RECV_HANDLE` and its auto-reply report the timeout, every other command 0 (R197). -/
theorem State.Inv.raiseRxCode_busTimeout (hi : s.Inv) (hb : s.status.busy = true) :
    raiseRxCode s.cfg.linkLayer s.cmdw .busTimeout =
      if s.ctx = .recvHandle ∨ s.ctx = .autoAck then .timeout else .ack := by
  obtain ⟨-, -, hctx⟩ := finishAndRaiseEndTheCommand
  exact (raiseRxCode_eq_ite ..).trans (if_congr (hctx s hi hb) (if_pos rfl) rfl)

/-- The answer `BUS_TIMEOUT` raises its error at once, whatever the outstanding request. -/
theorem step_busTimeout {q : Request} (hr : s.ports.rst = false) (he : s.nextEvent = .answer .busTimeout)
    (hq : currentRequest s = .ok (some q)) :
    step s = .next (raiseError .busTimeout
      ({ s.advance with chip := Config.freeChip (s.now + 1) }.log (.request q .busTimeout))) := by
  have hanswer := onAnswer_row (s := s.advance) hr hq (respond_busTimeout ..)
  rw [step_of_react ((react_answer he).trans (congrArg outcome hanswer))]
  exact congrArg _ (thenPoll_left (.inr (by simp)))

end

/-- Settles O44: the request is outstanding, its answer raises `BusTimeout`, and the opcode test of R197 on `CMDW` is
the test on `CTX`. -/
theorem busTimeoutEndsTheCommand : Obligations.BusTimeoutEndsTheCommand := by
  intro s hi hr hf he
  obtain ⟨q, hq⟩ := currentRequest_some hi hf
  have hidle : s.fsm ≠ .idle := fun h => by simp [h, Fsm.requests] at hf
  refine ⟨Config.freeChip (s.now + 1), q, hq, (step_busTimeout hr he hq).trans (congrArg _ ?_)⟩
  exact raiseError_eq_of_code (hi.raiseRxCode_busTimeout (hi.busy.2 hidle))

end Sys2Proof.Machine
